-- ==== Sys2Proof/Word.lean ====
section
/-! DEFINITION. The two word types of the hardware: the byte and the 16-bit address (00_scope.md R4, R5). -/

namespace Sys2Proof

/-- A byte, 0..255: register contents, a memory byte, a Bus value (R5). -/
abbrev Byte := BitVec 8

/-- A 16-bit address or word, 0..65535; its arithmetic wraps modulo 65536 (R5, R7). -/
abbrev Addr := BitVec 16

end Sys2Proof
end

