-- ==== Sys2Proof/Machine/Bytes.lean ====
section
/-! DEFINITION. Byte order: a word from two bytes and back (00_scope.md R5, 20_memory.md R49). -/

namespace Sys2Proof.Machine

/-- `hi:lo`, the word `hi*256 + lo` (R5, R45). -/
def wordOf (hi lo : Byte) : Addr := hi ++ lo

/-- `(w / 256) mod 256` (R27). -/
def hiByte (w : Addr) : Byte := w.extractLsb' 8 8

/-- `w mod 256` (R27). -/
def loByte (w : Addr) : Byte := w.extractLsb' 0 8

/-- R5: `zext_16` of a byte. -/
def zext16 (b : Byte) : Addr := b.setWidth 16

end Sys2Proof.Machine
end

