-- ==== Sys2Proof/Config.lean ====
section
/-! DEFINITION. What an implementation fixes: the parameters of 00_scope.md R4, the open ones as constants without a body. -/

namespace Sys2Proof

/-- The ten opcode bytes as one configuration record (30_encoding.md R75). -/
structure OpcodeMap where
  brk : Byte
  ldaImm : Byte
  ldxImm : Byte
  ldyImm : Byte
  staZp : Byte
  staAbs : Byte
  jmpAbs : Byte
  jsr : Byte
  rts : Byte
  nop : Byte
  deriving DecidableEq, Repr

/-- The ten bytes in the order of R74. -/
def OpcodeMap.bytes (m : OpcodeMap) : List Byte :=
  [m.brk, m.ldaImm, m.ldxImm, m.ldyImm, m.staZp, m.staAbs, m.jmpAbs, m.jsr, m.rts, m.nop]

/-- R75, D1: the ten bytes are pairwise distinct. -/
abbrev OpcodeMap.Distinct (m : OpcodeMap) : Prop := m.bytes.Nodup

/-- The cost table (70_reset_and_hazards.md R190), which R191 makes configuration. -/
structure CostTable where
  brk : Nat
  ldaImm : Nat
  ldxImm : Nat
  ldyImm : Nat
  staZp : Nat
  staAbs : Nat
  jmpAbs : Nat
  jsr : Nat
  rts : Nat
  nop : Nat
  unimpl : Nat
  deriving DecidableEq, Repr

/-- Where each flag stands in `P` (10_state.md R17). -/
structure FlagLayout where
  c : Nat
  z : Nat
  i : Nat
  d : Nat
  b : Nat
  u : Nat
  v : Nat
  n : Nat
  deriving DecidableEq, Repr

namespace Config

/-- R74. 0xA9, 0x8D, 0x20 and 0x60 are the source's; PRESUMED (unsafe, log entry 1): the other six are the
MOS 6502's, the defaults of decision D1. -/
def opcodes : OpcodeMap where
  brk := 0x00
  ldaImm := 0xA9
  ldxImm := 0xA2
  ldyImm := 0xA0
  staZp := 0x85
  staAbs := 0x8D
  jmpAbs := 0x4C
  jsr := 0x20
  rts := 0x60
  nop := 0xEA

/-- R190. -/
def costs : CostTable where
  brk := 7
  ldaImm := 2
  ldxImm := 2
  ldyImm := 2
  staZp := 3
  staAbs := 4
  jmpAbs := 3
  jsr := 6
  rts := 6
  nop := 2
  unimpl := 2

/-- R17. DEDUCED (unsafe, log entry 2): the source's list of names read as ascending bit order, decision D2. -/
def flagBits : FlagLayout where
  c := 0
  z := 1
  i := 2
  d := 3
  b := 4
  u := 5
  v := 6
  n := 7

/-- R15: the stack page. -/
def stackBase : Addr := 0x0100

/-- R124, R160: the word `CpuReset` loads `PC` from. -/
def resetVector : Addr := 0xFFFC

/-- R124, R126: the word `BRK` loads `PC` from. -/
def brkVector : Addr := 0xFFFE

/-- R160. -/
def spReset : Byte := 0xFF

/-- R160: only U set. -/
def pReset : Byte := 0x20

/-- R162, D13: where `loadROM` puts an image by default. -/
def romOffset : Nat := 0x8000

/-- R20, R41: flat memory has one byte for each of these addresses. -/
def memSize : Nat := 65536

/-- R22: columns and rows of the text screen. -/
def screenCols : Nat := 80

def screenRows : Nat := 24

/-- R22: cells of the video buffer, and of the attribute buffer. -/
def screenCells : Nat := 1920

/-- R22: bytes of the settings buffer. -/
def settingsSize : Nat := 256

/-- R53: the first address of each window of more than one address. -/
def videoStart : Addr := 0x2000

def attrStart : Addr := 0x2800

def settingsStart : Addr := 0x4000

/-- BLANK is a byte other than 0x00 that the spec leaves open (D8); this names which of the 255 it is.
A constant without a body (safe, log entry 5). -/
opaque blankIndex : Fin 255

/-- BLANK, what the screen reset writes to every video cell (R163, D8): never 0x00. -/
def blank : Byte := BitVec.ofNat 8 (blankIndex.val + 1)

/-- ATTR_CLEAR, what the screen reset writes to every attribute cell (R163, D8), left open (safe, log entry 5). -/
opaque attrClear : Byte

/-- The `k`-th free value: the byte a read with no stated result gives (R143, R47; safe, log entries 11, 15). -/
opaque freeByte : Nat → Byte

end Config

end Sys2Proof
end

