-- ==== Sys2Proof/Syntax.lean ====
section
/-! DEFINITION. The instructions: one constructor per row of spec/opcode_table.json (30_encoding.md R74, R77). -/

namespace Sys2Proof

/-- An instruction as the opcode byte selects it (R70: the byte alone selects the instruction, its operand form and
its length). Operand bytes are no part of it: the meaning reads them through the Bus while it runs, which is when the
hardware does (R82, R176, R178); DESIGN CHOICE (safe, log entry 23). `Insn` is the form with its operand written out. -/
inductive Instr where
  /-- `BRK` (R90). -/
  | brk
  /-- `LDA #imm` (R95). -/
  | ldaImm
  /-- `LDX #imm` (R96). -/
  | ldxImm
  /-- `LDY #imm` (R97). -/
  | ldyImm
  /-- `STA zp` (R100). -/
  | staZp
  /-- `STA abs` (R101). -/
  | staAbs
  /-- `JMP abs` (R105). -/
  | jmpAbs
  /-- `JSR abs` (R106). -/
  | jsr
  /-- `RTS` (R107). -/
  | rts
  /-- `NOP` (R110). -/
  | nop
  /-- Any opcode byte outside the ten (R111). -/
  | unimpl (op : Byte)
  deriving DecidableEq, Repr

end Sys2Proof
end

