-- ==== Sys2Proof/WellFormed.lean ====
section
/-! DEFINITION. Instruction formats, instructions with their operands, and which of them are well formed
(30_encoding.md R70, R77, R78). -/

namespace Sys2Proof

/-- The four formats of R70. -/
inductive Format where
  | imp
  | imm
  | zp
  | abs
  deriving DecidableEq, Repr

/-- An operand as it lies after the opcode byte (R71 to R73). -/
inductive Operand where
  | none
  | imm8 (v : Byte)
  | zp8 (z : Byte)
  | abs16 (w : Addr)
  deriving DecidableEq, Repr

/-- An instruction laid out in code: the row its opcode byte selects, and its operand. -/
structure Insn where
  instr : Instr
  operand : Operand
  deriving DecidableEq, Repr

/-- R70: each instruction's format. -/
def Instr.format : Instr → Format
  | .brk => .imp
  | .ldaImm => .imm
  | .ldxImm => .imm
  | .ldyImm => .imm
  | .staZp => .zp
  | .staAbs => .abs
  | .jmpAbs => .abs
  | .jsr => .abs
  | .rts => .imp
  | .nop => .imp
  | .unimpl _ => .imp

/-- R70: bytes of an instruction of each format, the opcode byte included. -/
def Format.length : Format → Nat
  | .imp => 1
  | .imm => 2
  | .zp => 2
  | .abs => 3

/-- R78. -/
def Instr.length (i : Instr) : Nat := i.format.length

/-- The format an operand belongs to. -/
def Operand.format : Operand → Format
  | .none => .imp
  | .imm8 _ => .imm
  | .zp8 _ => .zp
  | .abs16 _ => .abs

/-- R77: an unimplemented opcode is a byte other than the ten documented ones. -/
def Instr.wellFormedFor (m : OpcodeMap) : Instr → Bool
  | .brk => true
  | .ldaImm => true
  | .ldxImm => true
  | .ldyImm => true
  | .staZp => true
  | .staAbs => true
  | .jmpAbs => true
  | .jsr => true
  | .rts => true
  | .nop => true
  | .unimpl op => !m.bytes.contains op

def Instr.wellFormed (i : Instr) : Bool := i.wellFormedFor Config.opcodes

/-- R70: the opcode byte fixes the operand's form. -/
def Insn.wellFormedFor (m : OpcodeMap) (x : Insn) : Bool :=
  x.instr.wellFormedFor m && decide (x.operand.format = x.instr.format)

def Insn.wellFormed (x : Insn) : Bool := x.wellFormedFor Config.opcodes

end Sys2Proof
end

