-- ==== Sys2Proof/Decode.lean ====
section
/-! DEFINITION. The decoder, total on any bytes, and the encoder, both from the tables of 30_encoding.md. -/

namespace Sys2Proof

open Sys2Proof.Machine

/-- R76's `case op of`, for a given record of opcode bytes: the ten documented bytes, and the fallback for every
other one. -/
def decodeOpcodeWith (m : OpcodeMap) (op : Byte) : Instr :=
  if op = m.brk then .brk
  else if op = m.ldaImm then .ldaImm
  else if op = m.ldxImm then .ldxImm
  else if op = m.ldyImm then .ldyImm
  else if op = m.staZp then .staZp
  else if op = m.staAbs then .staAbs
  else if op = m.jmpAbs then .jmpAbs
  else if op = m.jsr then .jsr
  else if op = m.rts then .rts
  else if op = m.nop then .nop
  else .unimpl op

/-- The hardware's dispatch of one opcode byte (R76, R77): total, no byte is refused. -/
def decodeOpcode (op : Byte) : Instr := decodeOpcodeWith Config.opcodes op

/-- Why a byte string holds no whole instruction; the hardware itself never runs out of bytes (R82: operands wrap at
the top of memory). -/
inductive DecodeError where
  /-- There is no opcode byte. -/
  | noOpcode
  /-- The operand bytes of this opcode byte are not all there. -/
  | operandCut (op : Byte)
  deriving DecidableEq, Repr

/-- The instruction at the front of a byte string, with its operand, and the bytes after it (R70 to R73, R78). -/
def decodeWith (m : OpcodeMap) : List Byte → Except DecodeError (Insn × List Byte)
  | [] => .error .noOpcode
  | op :: rest =>
    let i := decodeOpcodeWith m op
    match i.format, rest with
    | .imp, _ => .ok (⟨i, .none⟩, rest)
    | .imm, v :: rest' => .ok (⟨i, .imm8 v⟩, rest')
    | .zp, z :: rest' => .ok (⟨i, .zp8 z⟩, rest')
    | .abs, lo :: hi :: rest' => .ok (⟨i, .abs16 (wordOf hi lo)⟩, rest')
    | .imm, [] => .error (.operandCut op)
    | .zp, [] => .error (.operandCut op)
    | .abs, [] => .error (.operandCut op)
    | .abs, [_] => .error (.operandCut op)

def decode (bs : List Byte) : Except DecodeError (Insn × List Byte) := decodeWith Config.opcodes bs

/-- R74: the opcode byte of each instruction. -/
def encodeOpcodeWith (m : OpcodeMap) : Instr → Byte
  | .brk => m.brk
  | .ldaImm => m.ldaImm
  | .ldxImm => m.ldxImm
  | .ldyImm => m.ldyImm
  | .staZp => m.staZp
  | .staAbs => m.staAbs
  | .jmpAbs => m.jmpAbs
  | .jsr => m.jsr
  | .rts => m.rts
  | .nop => m.nop
  | .unimpl op => op

def encodeOpcode (i : Instr) : Byte := encodeOpcodeWith Config.opcodes i

/-- R70 to R73: the operand bytes, an absolute operand low byte first. -/
def encodeOperand : Operand → List Byte
  | .none => []
  | .imm8 v => [v]
  | .zp8 z => [z]
  | .abs16 w => [loByte w, hiByte w]

def encodeWith (m : OpcodeMap) (x : Insn) : List Byte :=
  encodeOpcodeWith m x.instr :: encodeOperand x.operand

/-- The bytes of an instruction at ascending addresses (R70). -/
def encode (x : Insn) : List Byte := encodeWith Config.opcodes x

/-- The three bytes, first at the lowest address, of a table word of `nbits` bits; bits above `nbits` are 0. -/
def tableBytes (nbits w : Nat) : List Byte :=
  let v := w % 2 ^ nbits
  [BitVec.ofNat 8 v, BitVec.ofNat 8 (v / 256), BitVec.ofNat 8 (v / 65536)]

/-- What the decoder reads from a word numbered as spec/opcode_table.json numbers it. -/
def decodeTableWord (nbits w : Nat) : Option Instr :=
  match decode (tableBytes nbits w) with
  | .ok (x, _) => some x.instr
  | .error _ => none

end Sys2Proof
end

