-- ==== Sys2Proof/Machine/Memory.lean ====
section
/-! DEFINITION. Flat memory: 65536 bytes as a list of cells in one canonical form (10_state.md R20, 20_memory.md R40). -/

namespace Sys2Proof.Machine

/-- Flat memory (R20): the cells that differ from what an unlisted address reads as, addresses strictly rising. -/
abbrev Memory := List Host.Cell

/-- What a byte that nothing has written reads as: the spec's open parameter MEM_INIT (R20, D7).
DESIGN CHOICE (unsafe, log entry 4): 0x00 at every address. -/
def Memory.unlisted (_a : Nat) : Byte := 0x00

/-- `mem[a]`. -/
def Memory.read : Memory → Nat → Byte
  | [], a => Memory.unlisted a
  | (k, b) :: rest, a => if k < a then Memory.read rest a else if k = a then b else Memory.unlisted a

/-- A cell put in front of memory, unless it says what an unlisted address says. -/
def Memory.cons (a : Nat) (v : Byte) (m : Memory) : Memory :=
  if v = Memory.unlisted a then m else (a, v) :: m

/-- `mem[a] <- v`, keeping the canonical form. -/
def Memory.write : Memory → Nat → Byte → Memory
  | [], a, v => Memory.cons a v []
  | (k, b) :: rest, a, v =>
    if k < a then (k, b) :: Memory.write rest a v
    else if k = a then Memory.cons a v rest
    else Memory.cons a v ((k, b) :: rest)

/-- R46: `mem[a + i] <- bytes[i]`, in ascending order. -/
def Memory.load : Memory → Nat → List Byte → Memory
  | m, _, [] => m
  | m, a, b :: bs => Memory.load (m.write a b) (a + 1) bs

/-- The canonical form from address `lo` up: rising addresses inside memory, no cell equal to an unlisted one. -/
def Memory.wfFrom : Nat → Memory → Bool
  | _, [] => true
  | lo, (k, b) :: rest =>
    decide (lo ≤ k) && decide (k < Config.memSize) && decide (b ≠ Memory.unlisted k) && Memory.wfFrom (k + 1) rest

/-- The canonical form: equal memories are equal lists. -/
def Memory.wf (m : Memory) : Bool := Memory.wfFrom 0 m

end Sys2Proof.Machine
end

