-- ==== Sys2Proof/Machine/State.lean ====
section
/-! DEFINITION. The state of the machine (10_state.md R10), why a step can stop, and the state after reset. -/

namespace Sys2Proof.Machine

/-- R161: the Machine Controller's two states. -/
inductive Power where
  | off
  | on
  deriving DecidableEq, Repr

/-- R22, R168: a cell of the text screen, which only the display snapshot shows. -/
structure Cursor where
  row : Nat
  col : Nat
  deriving DecidableEq, Repr

/-- The output events of the core (R6, R9). -/
inductive Event where
  /-- The outbound-byte callback of a write to 0x3000 (R144), where one is registered. -/
  | tx (b : Byte)
  /-- The save of the whole settings buffer after a write to it (R150). -/
  | save (buffer : List Byte)
  /-- The diagnostic of an unimplemented opcode: the byte, and the address it was fetched from (R111). -/
  | diag (op : Byte) (addr : Addr)
  deriving DecidableEq, Repr

/-- Everything the spec calls state (R10), and the model's own `events` and `draws`. -/
structure State where
  /-- `A` (R11). -/
  a : Byte
  /-- `X` (R12). -/
  x : Byte
  /-- `Y` (R13). -/
  y : Byte
  /-- `PC` (R14). -/
  pc : Addr
  /-- `SP` (R15). -/
  sp : Byte
  /-- `P`, read and pushed whole, its flags at `Config.flagBits` (R16, R17). -/
  p : Byte
  /-- `cycles` (R19), which never wraps (D10, log entry 17). -/
  cycles : Nat
  /-- `mem[0..65535]` (R20). -/
  mem : Memory
  /-- `video[0..1919]` (R22, R141). -/
  video : List Byte
  /-- `attr[0..1919]` (R22, R142). -/
  attr : List Byte
  /-- `uartRx`, oldest byte first (R22, R144). -/
  uartRx : List Byte
  /-- `uartTxLog`, oldest byte first (R22, R144). -/
  uartTxLog : List Byte
  /-- `kbd`, oldest byte first (R22, R147). -/
  kbd : List Byte
  /-- `settings[0..255]` (R22, R150). -/
  settings : List Byte
  /-- Cursor position (R10, R22). -/
  cursor : Cursor
  /-- Cursor visibility (R10, R22). -/
  cursorVisible : Bool
  /-- `power` (R23). -/
  power : Power
  /-- `romLoaded` (R23). -/
  romLoaded : Bool
  /-- Whether an outbound-byte callback is registered (R144); the value at reset is log entry 30's. -/
  txCallback : Bool
  /-- The model's own field: the output events so far, oldest first (log entry 12). -/
  events : List Event
  /-- The model's own field: how many free values have been taken (log entry 11). -/
  draws : Nat
  deriving DecidableEq, Repr

/-- Why a step of the machine faults: it never does. "The hardware raises no exception" (60_exceptions.md R120), and
every step completes (30_encoding.md R76), so there is no reason to name. -/
inductive Fault where
  deriving DecidableEq, Repr

/-- Why the model gives no answer. -/
inductive Refusal where
  /-- Raised by `exec` for an instruction without a meaning; no instruction of this model is (safe). -/
  | notModelled (mnemonic : String)
  /-- Raised by `busLoadROM`, a host call and no instruction, for an image that runs past the end of memory, which
  the spec refuses (20_memory.md R46, D13; safe, log entry 16). -/
  | romPastEnd
  deriving DecidableEq, Repr

/-- `A <- v`. -/
def State.setA (s : State) (v : Byte) : State := { s with a := v }

/-- `X <- v`. -/
def State.setX (s : State) (v : Byte) : State := { s with x := v }

/-- `Y <- v`. -/
def State.setY (s : State) (v : Byte) : State := { s with y := v }

/-- `PC <- v`. -/
def State.setPc (s : State) (v : Addr) : State := { s with pc := v }

/-- `SP <- v`. -/
def State.setSp (s : State) (v : Byte) : State := { s with sp := v }

/-- `P <- v`. -/
def State.setP (s : State) (v : Byte) : State := { s with p := v }

/-- `cycles <- cycles + n`, an instruction's last action (R190). -/
def State.charge (s : State) (n : Nat) : State := { s with cycles := s.cycles + n }

/-- `emit e` (R6). -/
def State.emit (s : State) (e : Event) : State := { s with events := s.events ++ [e] }

/-- The machine right after reset: as `construct`, `loadROM` of an empty image and a successful `powerOn` leave it
(70_reset_and_hazards.md R169; DESIGN CHOICE, log entry 9; the settings are log entry 6, the cursor log entry 7, the callback log entry 30). -/
def State.reset : State where
  a := 0x00
  x := 0x00
  y := 0x00
  pc := wordOf (Memory.read [] 0xFFFD) (Memory.read [] 0xFFFC)
  sp := Config.spReset
  p := Config.pReset
  cycles := 0
  mem := []
  video := List.replicate Config.screenCells Config.blank
  attr := List.replicate Config.screenCells Config.attrClear
  uartRx := []
  uartTxLog := []
  kbd := []
  settings := List.replicate Config.settingsSize 0x00
  cursor := ⟨0, 0⟩
  cursorVisible := false
  power := .on
  romLoaded := true
  txCallback := true
  events := []
  draws := 0

end Sys2Proof.Machine
end

