-- ==== Sys2Proof/Machine/Devices.lean ====
section
/-! DEFINITION. The Device Set: what each register's callbacks do, and the seven registrations of the fixed map
(60_exceptions.md R140 to R152). -/

namespace Sys2Proof.Machine

/-- The read callbacks the Device Set installs (R140). -/
inductive ReadPort where
  | video
  | attr
  | uartData
  | uartStatus
  | kbdData
  | kbdStatus
  | settings
  deriving DecidableEq, Repr

/-- The write callbacks the Device Set installs (R140). -/
inductive WritePort where
  | video
  | attr
  | uartData
  | settings
  deriving DecidableEq, Repr

/-- One handler registration: the closed interval, and the callbacks it has (R21, R42). -/
structure Registration where
  start : Addr
  stop : Addr
  onRead : Option ReadPort
  onWrite : Option WritePort
  deriving DecidableEq, Repr

/-- R42: `start <= a <= end`. -/
def Registration.contains (h : Registration) (a : Addr) : Bool :=
  decide (h.start ≤ a) && decide (a ≤ h.stop)

/-- R42: `registerHandler` appends; overlap is not rejected. -/
def registerHandler (h : Registration) (hs : List Registration) : List Registration := hs ++ [h]

/-- The handler list of the machine, installed at construction and constant from then on (R21, R140). -/
def deviceMap : List Registration :=
  [ ⟨0x2000, 0x27CF, some .video, some .video⟩,
    ⟨0x2800, 0x2FCF, some .attr, some .attr⟩,
    ⟨0x3000, 0x3000, some .uartData, some .uartData⟩,
    ⟨0x3001, 0x3001, some .uartStatus, none⟩,
    ⟨0x3002, 0x3002, some .kbdData, none⟩,
    ⟨0x3003, 0x3003, some .kbdStatus, none⟩,
    ⟨0x4000, 0x40FF, some .settings, some .settings⟩ ]

/-- A byte the spec leaves open: a fresh free value each time (D5, D4). -/
def drawByte (s : State) : Byte × State := (Config.freeByte s.draws, { s with draws := s.draws + 1 })

/-- The offset of an address in a window (R48: the callback gets the address, the device subtracts its start). -/
def cellIndex (start a : Addr) : Nat := (a - start).toNat

/-- A screen cell of a window, or a free value in the window's tail (R141 to R143). -/
def cellRead (buffer : List Byte) (i : Nat) (s : State) : Byte × State :=
  if i < Config.screenCells then (buffer.getD i 0, s) else drawByte s

/-- A screen buffer after a write at offset `i`; the tail has no cell (R141 to R143). -/
def cellWrite (buffer : List Byte) (i : Nat) (v : Byte) : List Byte :=
  if i < Config.screenCells then buffer.set i v else buffer

/-- R145: bit 0 always 1, bit 1 iff the receive FIFO is non-empty, the rest 0 (D11, log entry 14). -/
def uartStatus (rx : List Byte) : Byte := if rx.isEmpty then 0x01 else 0x03

/-- R148. -/
def kbdStatus (kbd : List Byte) : Byte := if kbd.isEmpty then 0x00 else 0x01

/-- `onRead(a)` of each register (R141 to R150). -/
def deviceRead (port : ReadPort) (a : Addr) (s : State) : Byte × State :=
  match port with
  | .video => cellRead s.video (cellIndex Config.videoStart a) s
  | .attr => cellRead s.attr (cellIndex Config.attrStart a) s
  | .uartData => (s.uartRx.headD 0x00, { s with uartRx := s.uartRx.tail })
  | .uartStatus => (uartStatus s.uartRx, s)
  | .kbdData => (s.kbd.headD 0x00, { s with kbd := s.kbd.tail })
  | .kbdStatus => (kbdStatus s.kbd, s)
  | .settings => (s.settings.getD (cellIndex Config.settingsStart a) 0, s)

/-- R150: store, then save the whole buffer; the save's result is ignored (log entry 26). -/
def settingsWrite (i : Nat) (v : Byte) (s : State) : State :=
  let buffer := s.settings.set i v
  { s with settings := buffer, events := s.events ++ [.save buffer] }

/-- R144: the log grows, and `Tx` is emitted once if an outbound callback is registered. -/
def transmit (v : Byte) (s : State) : State :=
  { s with
    uartTxLog := s.uartTxLog ++ [v]
    events := if s.txCallback then s.events ++ [.tx v] else s.events }

/-- `onWrite(a, v)` of each register (R141 to R150). -/
def deviceWrite (port : WritePort) (a : Addr) (v : Byte) (s : State) : State :=
  match port with
  | .video => { s with video := cellWrite s.video (cellIndex Config.videoStart a) v }
  | .attr => { s with attr := cellWrite s.attr (cellIndex Config.attrStart a) v }
  | .uartData => transmit v s
  | .settings => settingsWrite (cellIndex Config.settingsStart a) v s

end Sys2Proof.Machine
end

