-- ==== Sys2Proof/Machine/Flags.lean ====
section
/-! DEFINITION. The status register's flags and their one computation (10_state.md R16 to R18, R24). -/

namespace Sys2Proof.Machine

/-- The mask of the flag at bit `i` (R17). -/
def flagMask (i : Nat) : Byte := 1#8 <<< i

/-- The flag at bit `i` of `P`. -/
def getFlag (i : Nat) (p : Byte) : Bool := p.getLsbD i

/-- `P` with the flag at bit `i` set or cleared. -/
def setFlag (i : Nat) (b : Bool) (p : Byte) : Byte :=
  if b then p ||| flagMask i else p &&& ~~~(flagMask i)

/-- R24: Z and N from a byte; every other bit of `P` kept. -/
def updateZN (v p : Byte) : Byte :=
  setFlag Config.flagBits.n (v.getLsbD 7) (setFlag Config.flagBits.z (v == 0) p)

/-- R90: the copy of `P` that `BRK` pushes, with B set. -/
def breakCopy (p : Byte) : Byte := p ||| flagMask Config.flagBits.b

end Sys2Proof.Machine
end

