-- ==== Sys2Proof/Machine/Ops.lean ====
section
/-! DEFINITION. The named operations over memory and registers: the Bus (20_memory.md R41 to R47), the stack
(10_state.md R25 to R28), the break entry (60_exceptions.md R126), the CPU reset (70_reset_and_hazards.md R160). -/

namespace Sys2Proof.Machine

/-- R42 to R44: the first registration, in registration order, that contains the address. -/
def findHandler : List Registration → Addr → Option Registration
  | [], _ => none
  | h :: rest, a => if h.contains a then some h else findHandler rest a

/-- R43 over any handler list. A registration without `onRead` gives a free value (R47, D4, log entry 15). -/
def busReadVia (hs : List Registration) (a : Addr) (s : State) : Byte × State :=
  match findHandler hs a with
  | none => (s.mem.read a.toNat, s)
  | some h =>
    match h.onRead with
    | some port => deviceRead port a s
    | none => drawByte s

/-- R44 over any handler list. A registration without `onWrite` drops the write (R47). -/
def busWriteVia (hs : List Registration) (a : Addr) (v : Byte) (s : State) : State :=
  match findHandler hs a with
  | none => { s with mem := s.mem.write a.toNat v }
  | some h =>
    match h.onWrite with
    | some port => deviceWrite port a v s
    | none => s

/-- `BusRead` of the machine. -/
def busRead (a : Addr) (s : State) : Byte × State := busReadVia deviceMap a s

/-- `BusWrite` of the machine. -/
def busWrite (a : Addr) (v : Byte) (s : State) : State := busWriteVia deviceMap a v s

/-- R41, R43: `BusRead` of any number, masked to 16 bits. -/
def busReadAt (addr : Nat) (s : State) : Byte × State := busRead (BitVec.ofNat 16 addr) s

/-- R41, R44: `BusWrite` of any numbers, masked to 16 and to 8 bits. -/
def busWriteAt (addr value : Nat) (s : State) : State :=
  busWrite (BitVec.ofNat 16 addr) (BitVec.ofNat 8 value) s

/-- R45: two reads, low address first; the second address wraps only at 0xFFFF. -/
def readWord (a : Addr) (s : State) : Addr × State :=
  let lo := busRead a s
  let hi := busRead (a + 1) lo.2
  (wordOf hi.1 lo.1, hi.2)

/-- R46: bytes straight into flat memory, whatever window covers them; past the end it is refused (D13). -/
def busLoadROM (bytes : List Byte) (offset : Nat) (s : State) : Host.Outcome State Fault Refusal :=
  if offset + bytes.length ≤ Config.memSize then .next { s with mem := s.mem.load offset bytes }
  else .refused .romPastEnd

/-- R15: `0x0100 | SP`. -/
def stackAddr (sp : Byte) : Addr := Config.stackBase ||| zext16 sp

/-- R25. -/
def push (b : Byte) (s : State) : State :=
  let s1 := busWrite (stackAddr s.sp) b s
  s1.setSp (s1.sp - 1)

/-- R26. -/
def pop (s : State) : Byte × State :=
  let s1 := s.setSp (s.sp + 1)
  busRead (stackAddr s1.sp) s1

/-- R27: high byte first. -/
def pushWord (w : Addr) (s : State) : State := push (loByte w) (push (hiByte w) s)

/-- R28: low byte first. -/
def popWord (s : State) : Addr × State :=
  let lo := pop s
  let hi := pop lo.2
  (wordOf hi.1 lo.1, hi.2)

/-- R126, R90: the one trap-like entry. The address two past the opcode and the status with B set go on the stack,
I is set, and control goes where the break vector says. There is no return from it: no instruction pops a byte into
`P` (R127). -/
def takeBreak (s : State) : State :=
  let s1 := pushWord (s.pc + 1) s
  let s2 := push (breakCopy s1.p) s1
  let s3 := s2.setP (setFlag Config.flagBits.i true s2.p)
  let target := readWord Config.brkVector s3
  target.2.setPc target.1

/-- R160: `CpuReset`. A, X and Y are cleared (conflict C1, decision D3; DEDUCED, unsafe, log entry 3). -/
def cpuReset (s : State) : State :=
  let s1 := { s with a := 0x00, x := 0x00, y := 0x00, sp := Config.spReset, p := Config.pReset }
  let target := readWord Config.resetVector s1
  { target.2 with pc := target.1, cycles := 0 }

/-- R76: the opcode fetch, which advances `PC` past the opcode byte. -/
def fetchOpcode (s : State) : Byte × State :=
  let r := busRead s.pc s
  (r.1, r.2.setPc (r.2.pc + 1))

/-- A byte stored where a Bus read of the address finds it; a status register or a window tail holds none, and stays.
No operation of the hardware: `withFetchWord` uses it to place an instruction (log entry 28). -/
def plantByte (a : Addr) (v : Byte) (s : State) : State :=
  match (findHandler deviceMap a).map Registration.onRead with
  | none => { s with mem := s.mem.write a.toNat v }
  | some (some .video) => { s with video := cellWrite s.video (cellIndex Config.videoStart a) v }
  | some (some .attr) => { s with attr := cellWrite s.attr (cellIndex Config.attrStart a) v }
  | some (some .uartData) => { s with uartRx := v :: s.uartRx }
  | some (some .kbdData) => { s with kbd := v :: s.kbd }
  | some (some .settings) => { s with settings := s.settings.set (cellIndex Config.settingsStart a) v }
  | some (some .uartStatus) => s
  | some (some .kbdStatus) => s
  | some none => s

/-- Bytes planted at ascending addresses. -/
def plantBytes : Addr → List Byte → State → State
  | _, [], s => s
  | a, b :: bs, s => plantBytes (a + 1) bs (plantByte a b s)

end Sys2Proof.Machine
end

