-- ==== Sys2Proof/Machine/Break.lean ====
section
/-! DEFINITION. Software break (40_brk.md). On entry `PC` is one past the opcode byte. -/

namespace Sys2Proof.Machine

/-- R90: `BRK`. -/
def execBrk (s : State) : Host.Outcome State Fault Refusal :=
  .next ((takeBreak s).charge Config.costs.brk)

end Sys2Proof.Machine
end

