-- ==== Sys2Proof/Machine/Operands.lean ====
section
/-! DEFINITION. The operand forms (30_encoding.md R71 to R73, R82): read through the Bus at `PC`, which they advance. -/

namespace Sys2Proof.Machine

/-- R71: an immediate byte. -/
def fetchImm8 (s : State) : Byte × State :=
  let r := busRead s.pc s
  (r.1, r.2.setPc (r.2.pc + 1))

/-- R72: a zero-page address, the operand byte zero-extended. -/
def fetchZp8 (s : State) : Addr × State :=
  let r := busRead s.pc s
  (zext16 r.1, r.2.setPc (r.2.pc + 1))

/-- R73: an absolute address, low byte first; `PC` goes past both bytes. -/
def fetchAbs16 (s : State) : Addr × State :=
  let r := readWord s.pc s
  (r.1, r.2.setPc (r.2.pc + 2))

/-- R73, R105, R106: an absolute operand that becomes the new `PC`. -/
def jumpAbs16 (s : State) : State :=
  let r := readWord s.pc s
  r.2.setPc r.1

end Sys2Proof.Machine
end

