-- ==== Sys2Proof/Machine/Control.lean ====
section
/-! DEFINITION. Control transfer (43_control_transfer.md). On entry `PC` is one past the opcode byte. -/

namespace Sys2Proof.Machine

/-- R105: `JMP abs`. -/
def execJmpAbs (s : State) : Host.Outcome State Fault Refusal :=
  .next ((jumpAbs16 s).charge Config.costs.jmpAbs)

/-- R106: `JSR abs`. Both pushes come before the operand is read (R178); the pushed word wraps (D18, log entry 18). -/
def execJsr (s : State) : Host.Outcome State Fault Refusal :=
  .next ((jumpAbs16 (pushWord (s.pc + 1) s)).charge Config.costs.jsr)

/-- R107: `RTS`. -/
def execRts (s : State) : Host.Outcome State Fault Refusal :=
  let w := popWord s
  .next ((w.2.setPc (w.1 + 1)).charge Config.costs.rts)

end Sys2Proof.Machine
end

