-- ==== Sys2Proof/Machine/Fallback.lean ====
section
/-! DEFINITION. `NOP` and the unimplemented-opcode fallback (44_nop_and_unimplemented.md). On entry `PC` is one past
the opcode byte. -/

namespace Sys2Proof.Machine

/-- R110: `NOP`. -/
def execNop (s : State) : Host.Outcome State Fault Refusal :=
  .next (s.charge Config.costs.nop)

/-- R111: the fallback. The diagnostic's address is the one the opcode was fetched from (D12, log entry 13). -/
def execUnimpl (op : Byte) (s : State) : Host.Outcome State Fault Refusal :=
  .next ((s.emit (.diag op (s.pc - 1))).charge Config.costs.unimpl)

end Sys2Proof.Machine
end

