-- ==== Sys2Proof/Machine/Load.lean ====
section
/-! DEFINITION. Load immediate (41_load_immediate.md). On entry `PC` is one past the opcode byte. -/

namespace Sys2Proof.Machine

/-- R95: `LDA #imm`. -/
def execLdaImm (s : State) : Host.Outcome State Fault Refusal :=
  let v := fetchImm8 s
  .next (((v.2.setA v.1).setP (updateZN v.1 v.2.p)).charge Config.costs.ldaImm)

/-- R96: `LDX #imm`. -/
def execLdxImm (s : State) : Host.Outcome State Fault Refusal :=
  let v := fetchImm8 s
  .next (((v.2.setX v.1).setP (updateZN v.1 v.2.p)).charge Config.costs.ldxImm)

/-- R97: `LDY #imm`. -/
def execLdyImm (s : State) : Host.Outcome State Fault Refusal :=
  let v := fetchImm8 s
  .next (((v.2.setY v.1).setP (updateZN v.1 v.2.p)).charge Config.costs.ldyImm)

end Sys2Proof.Machine
end

