-- ==== Sys2Proof/Machine/Store.lean ====
section
/-! DEFINITION. Store accumulator (42_store.md). On entry `PC` is one past the opcode byte. -/

namespace Sys2Proof.Machine

/-- R100: `STA zp`. -/
def execStaZp (s : State) : Host.Outcome State Fault Refusal :=
  let z := fetchZp8 s
  .next ((busWrite z.1 z.2.a z.2).charge Config.costs.staZp)

/-- R101: `STA abs`. -/
def execStaAbs (s : State) : Host.Outcome State Fault Refusal :=
  let t := fetchAbs16 s
  .next ((busWrite t.1 t.2.a t.2).charge Config.costs.staAbs)

end Sys2Proof.Machine
end

