-- ==== Sys2Proof/Machine/Dispatch.lean ====
section
/-! DEFINITION. The dispatch of an instruction to its meaning (30_encoding.md R76). -/

namespace Sys2Proof.Machine

-- The body of one instruction, entered with PC one past the opcode byte (R76).
def exec (i : Instr) (s : State) : Host.Outcome State Fault Refusal :=
  match i with
  | .brk => Sys2Proof.Machine.execBrk s
  | .ldaImm => Sys2Proof.Machine.execLdaImm s
  | .ldxImm => Sys2Proof.Machine.execLdxImm s
  | .ldyImm => Sys2Proof.Machine.execLdyImm s
  | .staZp => Sys2Proof.Machine.execStaZp s
  | .staAbs => Sys2Proof.Machine.execStaAbs s
  | .jmpAbs => Sys2Proof.Machine.execJmpAbs s
  | .jsr => Sys2Proof.Machine.execJsr s
  | .rts => Sys2Proof.Machine.execRts s
  | .nop => Sys2Proof.Machine.execNop s
  | .unimpl op => Sys2Proof.Machine.execUnimpl op s

end Sys2Proof.Machine
end

