-- ==== Sys2Proof/Machine/Step.lean ====
section
/-! DEFINITION. One step: the CPU's `Step` (30_encoding.md R76) while the controller is On. -/

namespace Sys2Proof.Machine

/-- R76: fetch the opcode byte through the Bus, advance `PC` by 1, run the instruction it selects. Six of the ten bytes
are open parameters (R4, D1), so the record of opcode bytes is an argument. -/
def cpuStepWith (m : OpcodeMap) (s : State) : Host.Outcome State Fault Refusal :=
  let op := fetchOpcode s
  exec (decodeOpcodeWith m op.1) op.2

/-- One step of the machine with these opcode bytes. In Off no instruction executes and all state is kept (R134, R166);
DEDUCED (safe, log entry 10): a step there leaves the machine as it is. -/
def stepWith (m : OpcodeMap) (s : State) : Host.Outcome State Fault Refusal :=
  match s.power with
  | .on => cpuStepWith m s
  | .off => .next s

/-- One step of the machine with the opcode bytes of `Config.opcodes` (log entry 1). -/
def step (s : State) : Host.Outcome State Fault Refusal := stepWith Config.opcodes s

/-- The machine with an instruction placed where the next step fetches, and switched On, as a step needs
(log entries 9, 28). -/
def State.withFetchWord (s : State) (nbits w : Nat) : State :=
  plantBytes s.pc (tableBytes nbits w) { s with power := .on }

end Sys2Proof.Machine
end

