-- ==== Sys2Proof/Machine/Controller.lean ====
section
/-! DEFINITION. The Machine Controller, the run loop and the collaborators' feeds (70_reset_and_hazards.md R161 to
R171, 60_exceptions.md R146, R149): what the host can do to the machine, between steps. -/

namespace Sys2Proof.Machine

/-- The machine as constructed, over given contents of flat memory, the open parameter MEM_INIT (R169, column
"at construction"; D7), with an outbound callback registered or none (R144; log entry 30). Registers, settings and cursor, which the spec states no value for there, are zero
(DESIGN CHOICE, log entry 8). -/
def construct (memInit : Memory) (txCallback : Bool) : State where
  a := 0x00
  x := 0x00
  y := 0x00
  pc := 0x0000
  sp := 0x00
  p := 0x00
  cycles := 0
  mem := memInit
  video := List.replicate Config.screenCells 0x00
  attr := List.replicate Config.screenCells 0x00
  uartRx := []
  uartTxLog := []
  kbd := []
  settings := List.replicate Config.settingsSize 0x00
  cursor := ⟨0, 0⟩
  cursorVisible := false
  power := .off
  romLoaded := false
  txCallback := txCallback
  events := []
  draws := 0

/-- An input of a collaborator, which lands between two steps (R57, D22). -/
inductive Arrival where
  /-- `enqueueKey(b)` (R149). -/
  | key (b : Byte)
  /-- `receiveFromHost(bytes)` (R146). -/
  | received (bytes : List Byte)
  deriving DecidableEq, Repr

/-- R149: append to the keyboard FIFO. -/
def enqueueKey (b : Byte) (s : State) : State := { s with kbd := s.kbd ++ [b] }

/-- R146: append to the UART receive FIFO, in order. -/
def receiveFromHost (bytes : List Byte) (s : State) : State := { s with uartRx := s.uartRx ++ bytes }

def arrive (r : Arrival) (s : State) : State :=
  match r with
  | .key b => enqueueKey b s
  | .received bytes => receiveFromHost bytes s

def arriveAll (rs : List Arrival) (s : State) : State := rs.foldl (fun s r => arrive r s) s

/-- R162: an image into flat memory at an offset, and ROM marked loaded. -/
def loadROMAt (offset : Nat) (bytes : List Byte) (s : State) : Host.Outcome State Fault Refusal :=
  busLoadROM bytes offset { s with romLoaded := true }

/-- R162: at the default offset. -/
def loadROM (bytes : List Byte) (s : State) : Host.Outcome State Fault Refusal :=
  loadROMAt Config.romOffset bytes s

/-- R163, R165: video to BLANK, attributes to ATTR_CLEAR, every cell. -/
def clearScreen (s : State) : State :=
  { s with
    video := List.replicate Config.screenCells Config.blank
    attr := List.replicate Config.screenCells Config.attrClear }

/-- R163, with the persistence collaborator's 256 bytes as its answer to `load()` (D21, log entry 26). -/
def powerOn (loaded : Vector Byte 256) (s : State) : Bool × State :=
  if s.romLoaded then
    (true, { clearScreen (cpuReset { s with power := .on }) with
      cursor := ⟨0, 0⟩
      settings := loaded.toList })
  else (false, s)

/-- R164. -/
def powerOff (s : State) : State := { s with power := .off }

/-- R165: the controller's `reset()`, effective only in On. -/
def controllerReset (s : State) : State :=
  match s.power with
  | .off => s
  | .on => clearScreen (cpuReset s)

/-- R170's loop: steps while the counter is below `goal`, at most `fuel` of them. The head of `arrivals` lands before
the next step (D22); arrivals listed for a step that is not reached have not happened. The opcode bytes are an argument
of this and all that runs it (R4, D1). -/
def executeLoop (m : OpcodeMap) : Nat → Nat → List (List Arrival) → State → Host.Outcome State Fault Refusal
  | 0, _, _, s => .next s
  | fuel + 1, goal, arrivals, s =>
    if goal ≤ s.cycles then .next s
    else
      match cpuStepWith m (arriveAll (arrivals.headD []) s) with
      | .next s' => executeLoop m fuel goal arrivals.tail s'
      | .fault r => .fault r
      | .refused r => .refused r

/-- R170: `Execute(budget)`. Every step adds at least 1 to the counter, so `budget` steps are never too few (D9, log
entry 21). -/
def execute (m : OpcodeMap) (budget : Nat) (arrivals : List (List Arrival)) (s : State) :
    Host.Outcome State Fault Refusal :=
  executeLoop m budget (s.cycles + budget) arrivals s

/-- R166. -/
def tick (m : OpcodeMap) (budget : Nat) (arrivals : List (List Arrival)) (s : State) :
    Host.Outcome State Fault Refusal :=
  match s.power with
  | .off => .next s
  | .on => execute m budget arrivals s

/-- R168: the renderer's view. -/
structure Snapshot where
  video : List Byte
  attr : List Byte
  cursor : Cursor
  cursorVisible : Bool
  cols : Nat
  rows : Nat
  deriving DecidableEq, Repr

/-- R168: it changes no state. -/
def getDisplaySnapshot (s : State) : Snapshot :=
  ⟨s.video, s.attr, s.cursor, s.cursorVisible, Config.screenCols, Config.screenRows⟩

/-- What the host and the collaborators can do (R9). -/
inductive HostCall where
  | loadROM (bytes : List Byte)
  | powerOn (loaded : Vector Byte 256)
  | powerOff
  | reset
  | tick (budget : Nat) (arrivals : List (List Arrival))
  | arrival (r : Arrival)
  deriving Repr

/-- The state after a host call; `powerOn`'s Boolean is `powerOn`'s own. -/
def hostCall (m : OpcodeMap) (c : HostCall) (s : State) : Host.Outcome State Fault Refusal :=
  match c with
  | .loadROM bytes => loadROM bytes s
  | .powerOn loaded => .next (powerOn loaded s).2
  | .powerOff => .next (powerOff s)
  | .reset => .next (controllerReset s)
  | .tick budget arrivals => tick m budget arrivals s
  | .arrival r => .next (arrive r s)

/-- Host calls one after another (R167). -/
def hostCalls (m : OpcodeMap) : List HostCall → State → Host.Outcome State Fault Refusal
  | [], s => .next s
  | c :: cs, s =>
    match hostCall m c s with
    | .next s' => hostCalls m cs s'
    | .fault r => .fault r
    | .refused r => .refused r

end Sys2Proof.Machine
end

