-- ==== Sys2Proof/Safety.lean ====
section
/-! DEFINITION. What claims about the machine are stated with: the address map, the invariant, and what counts as a
safe run. -/

namespace Sys2Proof.Machine

/-- What stands at an address (20_memory.md R53, 60_exceptions.md R152), cells by their index. -/
inductive Region where
  | flat
  | video (cell : Nat)
  | videoTail
  | attr (cell : Nat)
  | attrTail
  | uartData
  | uartStatus
  | kbdData
  | kbdStatus
  | settings (cell : Nat)
  deriving DecidableEq, Repr

/-- The address map of R53 row by row, written from its table and not from the handler list. -/
def regionOf (a : Addr) : Region :=
  let n := a.toNat
  if n ≤ 0x1FFF then .flat
  else if n ≤ 0x277F then .video (n - 0x2000)
  else if n ≤ 0x27CF then .videoTail
  else if n ≤ 0x27FF then .flat
  else if n ≤ 0x2F7F then .attr (n - 0x2800)
  else if n ≤ 0x2FCF then .attrTail
  else if n ≤ 0x2FFF then .flat
  else if n = 0x3000 then .uartData
  else if n = 0x3001 then .uartStatus
  else if n = 0x3002 then .kbdData
  else if n = 0x3003 then .kbdStatus
  else if n ≤ 0x3FFF then .flat
  else if n ≤ 0x40FF then .settings (n - 0x4000)
  else .flat

/-- The invariant of every run from reset: flat memory canonical, every buffer at its size (R22), U set (R16). -/
structure Inv (s : State) : Prop where
  memWf : s.mem.wf = true
  videoLength : s.video.length = 1920
  attrLength : s.attr.length = 1920
  settingsLength : s.settings.length = 256
  unusedSet : getFlag Config.flagBits.u s.p = true

/-- Is this event a diagnostic of the fallback? -/
def Event.isDiag : Event → Bool
  | .tx _ => false
  | .save _ => false
  | .diag _ _ => true

/-- The byte an event sends to the transport, if it sends one (R144). -/
def Event.sent : Event → Option Byte
  | .tx b => some b
  | .save _ => none
  | .diag _ _ => none

/-- U1, R112: no unimplemented opcode has run so far. -/
def NoDiag (s : State) : Prop := s.events.all (fun e => !e.isDiag) = true

/-- What only the controller and the host change (R23, R168, R144). -/
structure SameControl (s t : State) : Prop where
  power : t.power = s.power
  romLoaded : t.romLoaded = s.romLoaded
  cursor : t.cursor = s.cursor
  cursorVisible : t.cursorVisible = s.cursorVisible
  txCallback : t.txCallback = s.txCallback

/-- What only a write of a device register, or the fallback's diagnostic, changes. -/
structure SameOutputs (s t : State) : Prop where
  video : t.video = s.video
  attr : t.attr = s.attr
  settings : t.settings = s.settings
  uartTxLog : t.uartTxLog = s.uartTxLog
  events : t.events = s.events

/-- Does a Bus read of this address give a free value (R143)? -/
def isTail (a : Addr) : Bool := decide (regionOf a = .videoTail) || decide (regionOf a = .attrTail)

/-- What only reads of device registers change, after Bus reads of exactly these addresses (R52): each read of 0x3000
or 0x3002 takes the oldest byte of its FIFO, each read of a window tail takes a free value. -/
structure InputsAfterReads (reads : List Addr) (s t : State) : Prop where
  uartRx : t.uartRx = s.uartRx.drop (reads.count 0x3000)
  kbd : t.kbd = s.kbd.drop (reads.count 0x3002)
  draws : t.draws = s.draws + reads.countP isTail

/-- The general registers and the stack pointer. -/
structure SameRegisters (s t : State) : Prop where
  a : t.a = s.a
  x : t.x = s.x
  y : t.y = s.y
  sp : t.sp = s.sp

/-- Every byte of flat memory reads as before, but at the addresses of `stored`. -/
def SameMemoryExcept (stored : List Nat) (s t : State) : Prop :=
  ∀ k, k ∉ stored → t.mem.read k = s.mem.read k

/-- What one Bus write of `v` at `d` does to memory and to the devices, row by row of R53 and R152. -/
def Stored (d : Addr) (v : Byte) (s t : State) : Prop :=
  match regionOf d with
  | .flat => t.mem.read d.toNat = v ∧ SameMemoryExcept [d.toNat] s t ∧ SameOutputs s t
  | .video i => SameMemoryExcept [] s t ∧ SameOutputs { s with video := s.video.set i v } t
  | .videoTail => SameMemoryExcept [] s t ∧ SameOutputs s t
  | .attr i => SameMemoryExcept [] s t ∧ SameOutputs { s with attr := s.attr.set i v } t
  | .attrTail => SameMemoryExcept [] s t ∧ SameOutputs s t
  | .uartData =>
    SameMemoryExcept [] s t ∧
      SameOutputs { s with
        uartTxLog := s.uartTxLog ++ [v]
        events := s.events ++ if s.txCallback then [.tx v] else [] } t
  | .uartStatus => SameMemoryExcept [] s t ∧ SameOutputs s t
  | .kbdData => SameMemoryExcept [] s t ∧ SameOutputs s t
  | .kbdStatus => SameMemoryExcept [] s t ∧ SameOutputs s t
  | .settings i =>
    SameMemoryExcept [] s t ∧
      SameOutputs { s with settings := s.settings.set i v, events := s.events ++ [.save (s.settings.set i v)] } t

/-- What the three loads have in common, with `v` the byte loaded (R95 to R97): flags, counter and frame, but for
A, X and Y. -/
structure AfterLoad (v : Byte) (s t : State) : Prop where
  sp : t.sp = s.sp
  pc : t.pc = s.pc + 1
  cycles : t.cycles = s.cycles + 2
  zero : getFlag Config.flagBits.z t.p = decide (v = 0)
  negative : getFlag Config.flagBits.n t.p = v.getLsbD 7
  otherFlags : ∀ j, j ≠ Config.flagBits.z → j ≠ Config.flagBits.n → getFlag j t.p = getFlag j s.p
  memory : SameMemoryExcept [] s t
  outputs : SameOutputs s t
  control : SameControl s t
  inputs : InputsAfterReads [s.pc] s t

/-- The bytes that `n` Bus reads of one address in a row return, and the state after them. -/
def readTimes (a : Addr) : Nat → State → List Byte × State
  | 0, s => ([], s)
  | n + 1, s =>
    let first := busRead a s
    let others := readTimes a n first.2
    (first.1 :: others.1, others.2)

/-- A step that ends neither in a fault nor in a refusal. -/
def Completes (s : State) : Prop := ∃ t, step s = .next t

end Sys2Proof.Machine
end

