-- ==== Sys2Proof/Certificates/Slice0/Obligations.lean ====
section
/-! DEFINITION. The statements about the model that provers are asked to settle, from the numbered rules of spec/. -/

open Sys2Proof Sys2Proof.Machine

/-! Encoding (30_encoding.md). -/

/-- R70 to R73, R77, R78: for every record of pairwise distinct opcode bytes (D1 leaves six of them open), decoding an
encoded well-formed instruction gives it back with its operand, whatever bytes follow. -/
def Obligations.DecodeInvertsEncode : Prop :=
  ∀ (m : OpcodeMap) (x : Insn) (rest : List Byte), m.Distinct → x.wellFormedFor m = true →
    decodeWith m (encodeWith m x ++ rest) = .ok (x, rest)

/-- R70, R77: what the decoder reads is well formed, and encoding it gives the bytes back. -/
def Obligations.EncodeInvertsDecode : Prop :=
  ∀ (m : OpcodeMap) (bs : List Byte) (x : Insn) (rest : List Byte), decodeWith m bs = .ok (x, rest) →
    encodeWith m x ++ rest = bs ∧ x.wellFormedFor m = true

/-- R77, R78: every opcode byte decodes; it is the fallback exactly when it is none of the ten; its length is a
function of the byte. The numeric bytes of BRK, LDX, LDY, STA zero-page, JMP and NOP are D1's (log entry 1). -/
def Obligations.EveryOpcodeByteDecodes : Prop :=
  ∀ (op b1 b2 : Byte) (rest : List Byte), ∃ (x : Insn) (rest' : List Byte),
    decode (op :: b1 :: b2 :: rest) = .ok (x, rest') ∧ x.instr = decodeOpcode op ∧
    rest'.length + x.instr.length = rest.length + 3 ∧
    (x.instr = .unimpl op ↔ op ∉ Config.opcodes.bytes) ∧
    x.instr.length =
      if op = 0xA9 ∨ op = 0xA2 ∨ op = 0xA0 ∨ op = 0x85 then 2
      else if op = 0x8D ∨ op = 0x4C ∨ op = 0x20 then 3
      else 1

/-- Words written out from the spec's encodings, one of each family (R74, R79; six opcode bytes are D1's, log entry 1). -/
def Obligations.WrittenOutWordsDecode : Prop :=
  decode [0xA9, 0x56, 0x8D] = .ok (⟨.ldaImm, .imm8 0x56⟩, [0x8D]) ∧
  decode [0xA2, 0x01] = .ok (⟨.ldxImm, .imm8 0x01⟩, []) ∧
  decode [0x85, 0x10] = .ok (⟨.staZp, .zp8 0x10⟩, []) ∧
  decode [0x8D, 0x00, 0x20] = .ok (⟨.staAbs, .abs16 0x2000⟩, []) ∧
  decode [0x4C, 0x02, 0x90] = .ok (⟨.jmpAbs, .abs16 0x9002⟩, []) ∧
  decode [0x20, 0x10, 0x80] = .ok (⟨.jsr, .abs16 0x8010⟩, []) ∧
  decode [0x60] = .ok (⟨.rts, .none⟩, []) ∧
  decode [0x00, 0xEA] = .ok (⟨.brk, .none⟩, [0xEA]) ∧
  decode [0xAD, 0x00, 0x20] = .ok (⟨.unimpl 0xAD, .none⟩, [0x00, 0x20])

/-- R75, D1: the ten opcode bytes of the configuration are pairwise distinct. -/
def Obligations.OpcodeBytesAreDistinct : Prop := Config.opcodes.Distinct

/-! The step (30_encoding.md R76). -/

/-- R76: a step in On fetches the opcode byte through the Bus, advances `PC` by 1 and runs the instruction the byte
selects; where the bytes at `PC` are flat memory, that is the instruction the decoder reads from them. It holds for every
record of opcode bytes, and `step` is the step with those of `Config.opcodes` (D1, log entry 1). In Off a step keeps
everything (R134; log entry 10). -/
def Obligations.StepRunsTheDecodedInstruction : Prop :=
  (∀ s : State, step s = stepWith Config.opcodes s) ∧
  (∀ (m : OpcodeMap) (s : State), s.power = .on →
    stepWith m s = exec (decodeOpcodeWith m (busRead s.pc s).1) ((busRead s.pc s).2.setPc (s.pc + 1))) ∧
  (∀ (m : OpcodeMap) (s : State) (x : Insn) (rest : List Byte), s.power = .on → regionOf s.pc = .flat →
    decodeWith m [s.mem.read s.pc.toNat, s.mem.read (s.pc + 1).toNat, s.mem.read (s.pc + 2).toNat] = .ok (x, rest) →
    stepWith m s = exec x.instr (s.setPc (s.pc + 1))) ∧
  (∀ (m : OpcodeMap) (s : State), s.power = .off → stepWith m s = .next s)

/-- R71 to R73, R82: started one past the opcode byte, and with the two bytes after it flat memory, the operand fetch of the
instruction's format gives the operand the decoder reads and leaves `PC` past it. It speaks of the fetches on that
state: each meaning but JSR's starts with its fetch, and JSR's comes after two pushes (R106, R178), which may lie in it. -/
def Obligations.OperandFetchReadsTheDecodedOperand : Prop :=
  ∀ (m : OpcodeMap) (s : State) (x : Insn) (rest : List Byte),
    regionOf (s.pc + 1) = .flat → regionOf (s.pc + 2) = .flat →
    decodeWith m [s.mem.read s.pc.toNat, s.mem.read (s.pc + 1).toNat, s.mem.read (s.pc + 2).toNat] = .ok (x, rest) →
    match x.operand with
    | .none => x.instr.format = .imp
    | .imm8 v => x.instr.format = .imm ∧ fetchImm8 (s.setPc (s.pc + 1)) = (v, s.setPc (s.pc + 2))
    | .zp8 z =>
      x.instr.format = .zp ∧
        ∃ d : Addr, d.toNat = z.toNat ∧ fetchZp8 (s.setPc (s.pc + 1)) = (d, s.setPc (s.pc + 2))
    | .abs16 w =>
      x.instr.format = .abs ∧ fetchAbs16 (s.setPc (s.pc + 1)) = (w, s.setPc (s.pc + 3)) ∧
        jumpAbs16 (s.setPc (s.pc + 1)) = s.setPc w

/-- R76, R120: every instruction completes in every state whatever, and so does every step, for every record of opcode
bytes. That a step in Off completes, leaving the machine as it is, is the model's choice of log entry 10: the rules speak
of the CPU's `Step` only. -/
def Obligations.EveryStepCompletes : Prop :=
  (∀ s : State, Completes s) ∧ (∀ (m : OpcodeMap) (s : State), ∃ t, stepWith m s = .next t) ∧
  (∀ (i : Instr) (s : State), ∃ t, exec i s = .next t)

/-! The Bus, flat memory and the devices (20_memory.md, 60_exceptions.md). -/

/-- R43, R52, R53, R141 to R150: dispatch over the seven registrations reads what the address map says. In a window's
tail the byte is a free value, which is D5's (log entry 11); UART status bits 7 to 2 are D11's (log entry 14). -/
def Obligations.BusReadFollowsTheAddressMap : Prop :=
  ∀ (a : Addr) (s : State), busRead a s =
    match regionOf a with
    | .flat => (s.mem.read a.toNat, s)
    | .video i => (s.video.getD i 0, s)
    | .videoTail => (Config.freeByte s.draws, { s with draws := s.draws + 1 })
    | .attr i => (s.attr.getD i 0, s)
    | .attrTail => (Config.freeByte s.draws, { s with draws := s.draws + 1 })
    | .uartData => (s.uartRx.headD 0, { s with uartRx := s.uartRx.tail })
    | .uartStatus => (if s.uartRx = [] then 0x01 else 0x03, s)
    | .kbdData => (s.kbd.headD 0, { s with kbd := s.kbd.tail })
    | .kbdStatus => (if s.kbd = [] then 0x00 else 0x01, s)
    | .settings i => (s.settings.getD i 0, s)

/-- R44, R47, R52, R53, R141 to R150: a Bus write does to memory and the devices what the address map says, and touches
no register, no input FIFO and no control state; one to 0x3000 emits `Tx` iff a callback is registered. That a write to
a tail does nothing is D5's (log entry 11), and that one to 0x3001, 0x3002 or 0x3003 is dropped is D4's (log entry 15). -/
def Obligations.BusWriteFollowsTheAddressMap : Prop :=
  ∀ (d : Addr) (v : Byte) (s : State), s.mem.wf = true →
    Stored d v s (busWrite d v s) ∧ SameRegisters s (busWrite d v s) ∧ SameControl s (busWrite d v s) ∧
    InputsAfterReads [] s (busWrite d v s) ∧ (busWrite d v s).pc = s.pc ∧ (busWrite d v s).p = s.p ∧
    (busWrite d v s).cycles = s.cycles ∧ (busWrite d v s).mem.wf = true

/-- R61: outside every window a write is read back, and disturbs no other byte of flat memory. -/
def Obligations.FlatMemoryRoundTrips : Prop :=
  ∀ (a : Addr) (v : Byte) (s : State), s.mem.wf = true → regionOf a = .flat →
    (busRead a (busWrite a v s)).1 = v ∧
    ∀ b : Addr, b ≠ a → regionOf b = .flat → (busRead b (busWrite a v s)).1 = (busRead b s).1

/-- R61, R30: inside a window nothing is written to flat memory, and nothing is read from it. For a write to 0x3001, 0x3002
or 0x3003 that is D4's (log entry 15). -/
def Obligations.WindowsNeverReachFlatMemory : Prop :=
  ∀ (a : Addr) (s : State), regionOf a ≠ .flat →
    (∀ v : Byte, (busWrite a v s).mem = s.mem) ∧
    (∀ m : Memory, (busRead a { s with mem := m }).1 = (busRead a s).1)

/-- R141, R142, R150: a cell of the video, attribute or settings window reads as last written. -/
def Obligations.BackedCellsRoundTrip : Prop :=
  ∀ (a : Addr) (v : Byte) (s : State), Inv s →
    ((∃ i, regionOf a = .video i) ∨ (∃ i, regionOf a = .attr i) ∨ (∃ i, regionOf a = .settings i)) →
    (busRead a (busWrite a v s)).1 = v ∧
    ∀ b : Addr, b ≠ a → isTail b = false → (busRead b (busWrite a v s)).1 = (busRead b s).1

/-- R42: `registerHandler` appends, an address is inside a registration iff it lies in the closed interval, and over any
handler list the first registration containing the address takes the access; with none, flat memory does. What a
registration without the callback does is D4's (log entry 15). -/
def Obligations.FirstRegistrationWins : Prop :=
  (∀ (h : Registration) (hs : List Registration), registerHandler h hs = hs ++ [h]) ∧
  (∀ (h : Registration) (a : Addr),
    h.contains a = true ↔ h.start.toNat ≤ a.toNat ∧ a.toNat ≤ h.stop.toNat) ∧
  (∀ (before rest : List Registration) (h : Registration) (a : Addr) (v : Byte) (s : State),
    (∀ g ∈ before, g.contains a = false) → h.contains a = true →
    busReadVia (before ++ h :: rest) a s =
      (match h.onRead with
      | some port => deviceRead port a s
      | none => drawByte s) ∧
    busWriteVia (before ++ h :: rest) a v s =
      (match h.onWrite with
      | some port => deviceWrite port a v s
      | none => s)) ∧
  (∀ (hs : List Registration) (a : Addr) (v : Byte) (s : State), (∀ g ∈ hs, g.contains a = false) →
    busReadVia hs a s = (s.mem.read a.toNat, s) ∧
    busWriteVia hs a v s = { s with mem := s.mem.write a.toNat v })

/-- R45: a word is two Bus reads, low address first, the high byte's address wrapping only at 0xFFFF. -/
def Obligations.ReadWordIsTwoReadsLowFirst : Prop :=
  ∀ (a : Addr) (s : State),
    let lo := busRead a s
    let hi := busRead (BitVec.ofNat 16 ((a.toNat + 1) % 65536)) lo.2
    (readWord a s).1.toNat = hi.1.toNat * 256 + lo.1.toNat ∧ (readWord a s).2 = hi.2

/-- R41: the Bus masks every address to 16 bits and every value to 8. -/
def Obligations.BusMasksAddressesAndValues : Prop :=
  (∀ (n v : Nat) (s : State),
    busReadAt n s = busReadAt (n % 65536) s ∧ busWriteAt n v s = busWriteAt (n % 65536) (v % 256) s) ∧
  (∀ (a : Addr) (v : Byte) (s : State),
    busReadAt a.toNat s = busRead a s ∧ busWriteAt a.toNat v.toNat s = busWrite a v s)

/-- The model's own canonical form (R20): canonical memories with equal bytes are equal data. -/
def Obligations.EqualMemoriesAreEqualData : Prop :=
  ∀ m m' : Memory, m.wf = true → m'.wf = true → (∀ k, m.read k = m'.read k) → m = m'

/-! Flags and stack (10_state.md). -/

/-- R24: Z iff the byte is 0, N iff its bit 7 is set, every other bit kept, never both. -/
def Obligations.UpdateZNWritesZeroAndNegative : Prop :=
  ∀ v p : Byte,
    getFlag Config.flagBits.z (updateZN v p) = decide (v.toNat % 256 = 0) ∧
    getFlag Config.flagBits.n (updateZN v p) = v.getLsbD 7 ∧
    (∀ j, j ≠ Config.flagBits.z → j ≠ Config.flagBits.n → getFlag j (updateZN v p) = getFlag j p) ∧
    ¬ (getFlag Config.flagBits.z (updateZN v p) = true ∧ getFlag Config.flagBits.n (updateZN v p) = true)

/-- R29: what is pushed is popped and `SP` is restored, for bytes and for words, from every `SP`. -/
def Obligations.PushThenPopRoundTrips : Prop :=
  ∀ s : State, s.mem.wf = true →
    (∀ b : Byte, (pop (push b s)).1 = b ∧ (pop (push b s)).2.sp = s.sp) ∧
    (∀ w : Addr, (popWord (pushWord w s)).1 = w ∧ (popWord (pushWord w s)).2.sp = s.sp)

/-- R25, R26: a push writes at 0x0100 + `SP` and then decrements, a pop increments and then reads; both wrap modulo 256
and touch nothing else. -/
def Obligations.PushAndPopMoveOneByte : Prop :=
  ∀ (b : Byte) (s : State), s.mem.wf = true →
    ((push b s).mem.read (0x0100 + s.sp.toNat) = b ∧ SameMemoryExcept [0x0100 + s.sp.toNat] s (push b s) ∧
      (push b s).sp.toNat = (s.sp.toNat + 255) % 256 ∧ { push b s with mem := s.mem, sp := s.sp } = s) ∧
    ((pop s).1 = s.mem.read (0x0100 + (s.sp.toNat + 1) % 256) ∧ (pop s).2.sp.toNat = (s.sp.toNat + 1) % 256 ∧
      { (pop s).2 with sp := s.sp } = s)

/-- R27: the high byte goes to 0x0100 + `SP`, the low byte to the slot below, wrapping inside the stack page. -/
def Obligations.PushWordPutsHighByteFirst : Prop :=
  ∀ (w : Addr) (s : State), s.mem.wf = true →
    let hiSlot := 0x0100 + s.sp.toNat
    let loSlot := 0x0100 + (s.sp.toNat + 255) % 256
    ((pushWord w s).mem.read hiSlot).toNat = w.toNat / 256 % 256 ∧
    ((pushWord w s).mem.read loSlot).toNat = w.toNat % 256 ∧
    SameMemoryExcept [hiSlot, loSlot] s (pushWord w s) ∧ (pushWord w s).sp = s.sp - 2 ∧
    { pushWord w s with mem := s.mem, sp := s.sp } = s

/-! The instructions, each entered with `PC` one past its opcode byte (R76). -/

/-- R95: `LDA #imm` (opcode byte 0xA9) completes in every state: A and the flags from the byte the Bus reads at `PC`. -/
def Obligations.LoadAccumulatorLoadsTheOperand : Prop :=
  decodeOpcode 0xA9 = .ldaImm ∧
  ∀ s : State,
    let v := (busRead s.pc s).1
    ∃ t, exec .ldaImm s = .next t ∧ t.a = v ∧ t.x = s.x ∧ t.y = s.y ∧ AfterLoad v s t

/-- R96, R97: `LDX #imm` and `LDY #imm` complete in every state, as `LDA` does, with X and Y for A. Their opcode bytes
are the parameters of D1 (log entry 1). -/
def Obligations.LoadIndexLoadsTheOperand : Prop :=
  (decodeOpcode Config.opcodes.ldxImm = .ldxImm ∧ decodeOpcode Config.opcodes.ldyImm = .ldyImm) ∧
  ∀ s : State,
    let v := (busRead s.pc s).1
    (∃ t, exec .ldxImm s = .next t ∧ t.x = v ∧ t.a = s.a ∧ t.y = s.y ∧ AfterLoad v s t) ∧
    (∃ t, exec .ldyImm s = .next t ∧ t.y = v ∧ t.a = s.a ∧ t.x = s.x ∧ AfterLoad v s t)

/-- R100: `STA zp` writes A at the zero-page address, in flat memory, and nothing else but `PC` and `cycles`. Its opcode
byte is D1's (log entry 1). -/
def Obligations.StoreZeroPageWritesA : Prop :=
  decodeOpcode Config.opcodes.staZp = .staZp ∧
  ∀ s : State, s.mem.wf = true →
    let d := (fetchZp8 s).1
    d.toNat = (busRead s.pc s).1.toNat ∧
    ∃ t, exec .staZp s = .next t ∧ t.mem.read d.toNat = s.a ∧ SameMemoryExcept [d.toNat] s t ∧
      t.pc = s.pc + 1 ∧ t.cycles = s.cycles + 3 ∧ t.p = s.p ∧ SameRegisters s t ∧ SameOutputs s t ∧
      SameControl s t ∧ InputsAfterReads [s.pc] s t

/-- R101: `STA abs` does one Bus write of A at the 16-bit operand, whatever stands there. That a write to a window's
tail does nothing is D5's (log entry 11), and that one to 0x3001, 0x3002 or 0x3003 is dropped is D4's (log entry 15);
one to 0x3000 emits `Tx` iff a callback is registered (R144). -/
def Obligations.StoreAbsoluteWritesA : Prop :=
  decodeOpcode 0x8D = .staAbs ∧
  ∀ s : State, s.mem.wf = true →
    let d := (fetchAbs16 s).1
    d = (readWord s.pc s).1 ∧
    ∃ t, exec .staAbs s = .next t ∧ Stored d s.a s t ∧ t.pc = s.pc + 2 ∧ t.cycles = s.cycles + 4 ∧ t.p = s.p ∧
      SameRegisters s t ∧ SameControl s t ∧ InputsAfterReads [s.pc, s.pc + 1] s t

/-- R105: `JMP abs` loads `PC` with the word at `PC`. Its opcode byte is D1's (log entry 1). -/
def Obligations.JumpLoadsPC : Prop :=
  decodeOpcode Config.opcodes.jmpAbs = .jmpAbs ∧
  ∀ s : State, ∃ t, exec .jmpAbs s = .next t ∧ t.pc = (readWord s.pc s).1 ∧ t.cycles = s.cycles + 3 ∧ t.p = s.p ∧
    SameRegisters s t ∧ SameMemoryExcept [] s t ∧ SameOutputs s t ∧ SameControl s t ∧
    InputsAfterReads [s.pc, s.pc + 1] s t

/-- R106: `JSR abs` pushes the address of its last byte and then, after both pushes, reads its operand into `PC`. That the
pushed word wraps modulo 65536 is D18's (log entry 18). -/
def Obligations.JumpSubroutinePushesThenJumps : Prop :=
  decodeOpcode 0x20 = .jsr ∧
  ∀ s : State, s.mem.wf = true →
    let hiSlot := (stackAddr s.sp).toNat
    let loSlot := (stackAddr (s.sp - 1)).toNat
    ∃ t, exec .jsr s = .next t ∧ t.pc = (readWord s.pc (pushWord (s.pc + 1) s)).1 ∧
      (t.mem.read hiSlot).toNat = (s.pc + 1).toNat / 256 ∧ (t.mem.read loSlot).toNat = (s.pc + 1).toNat % 256 ∧
      SameMemoryExcept [hiSlot, loSlot] s t ∧ t.sp = s.sp - 2 ∧ t.cycles = s.cycles + 6 ∧ t.p = s.p ∧
      t.a = s.a ∧ t.x = s.x ∧ t.y = s.y ∧ SameOutputs s t ∧ SameControl s t ∧
      InputsAfterReads [s.pc, s.pc + 1] s t

/-- R106 (e), R178: a `JSR` whose operand bytes are the two stack slots it pushes to jumps to the address it pushed;
one whose operand bytes are neither slot jumps where they said before. -/
def Obligations.JumpSubroutineReadsItsOperandLast : Prop :=
  (∀ s : State, s.mem.wf = true → s.pc = stackAddr (s.sp - 1) → s.pc + 1 = stackAddr s.sp →
    ∃ t, exec .jsr s = .next t ∧ t.pc = s.pc + 1) ∧
  (∀ s : State, s.mem.wf = true → regionOf s.pc = .flat → regionOf (s.pc + 1) = .flat →
    s.pc ≠ stackAddr s.sp → s.pc ≠ stackAddr (s.sp - 1) →
    s.pc + 1 ≠ stackAddr s.sp → s.pc + 1 ≠ stackAddr (s.sp - 1) →
    ∃ t, exec .jsr s = .next t ∧
      t.pc.toNat = (s.mem.read (s.pc + 1).toNat).toNat * 256 + (s.mem.read s.pc.toNat).toNat)

/-- R107: `RTS` pops a word and goes to the address after it. -/
def Obligations.ReturnPopsPC : Prop :=
  decodeOpcode 0x60 = .rts ∧
  ∀ s : State, ∃ t, exec .rts s = .next t ∧
    t.pc.toNat = ((s.mem.read (0x0100 + (s.sp.toNat + 2) % 256)).toNat * 256 +
      (s.mem.read (0x0100 + (s.sp.toNat + 1) % 256)).toNat + 1) % 65536 ∧
    t.sp.toNat = (s.sp.toNat + 2) % 256 ∧ t.cycles = s.cycles + 6 ∧ t.p = s.p ∧ t.a = s.a ∧ t.x = s.x ∧ t.y = s.y ∧
    SameMemoryExcept [] s t ∧ SameOutputs s t ∧ SameControl s t ∧ InputsAfterReads [] s t

/-- R108: an `RTS` that finds `SP` and the two pushed bytes as a `JSR` left them returns to the instruction after the
`JSR` (its opcode at `s.pc - 1`), with the `SP` from before it. -/
def Obligations.ReturnUndoesJumpSubroutine : Prop :=
  ∀ s t u : State, s.mem.wf = true → exec .jsr s = .next t → u.sp = t.sp →
    u.mem.read (stackAddr s.sp).toNat = t.mem.read (stackAddr s.sp).toNat →
    u.mem.read (stackAddr (s.sp - 1)).toNat = t.mem.read (stackAddr (s.sp - 1)).toNat →
    ∃ r, exec .rts u = .next r ∧ r.pc = s.pc - 1 + 3 ∧ r.sp = s.sp

/-- R90, R126: `BRK` pushes the address two past its opcode, high byte first, then `P` with B set, sets I in `P` and
nothing else of it, and takes `PC` from the break vector. Its opcode byte is D1's (log entry 1), and that the pushed word
wraps modulo 65536 is D18's (log entry 18). -/
def Obligations.BreakEntersThroughTheVector : Prop :=
  decodeOpcode Config.opcodes.brk = .brk ∧
  ∀ s : State, s.mem.wf = true →
    let hiSlot := (stackAddr s.sp).toNat
    let loSlot := (stackAddr (s.sp - 1)).toNat
    let pSlot := (stackAddr (s.sp - 2)).toNat
    ∃ t, exec .brk s = .next t ∧
      (t.mem.read hiSlot).toNat = (s.pc + 1).toNat / 256 ∧ (t.mem.read loSlot).toNat = (s.pc + 1).toNat % 256 ∧
      (∀ j, getFlag j (t.mem.read pSlot) = (decide (j = Config.flagBits.b) || getFlag j s.p)) ∧
      (∀ j, getFlag j t.p = (decide (j = Config.flagBits.i) || getFlag j s.p)) ∧
      t.pc.toNat = (s.mem.read 0xFFFF).toNat * 256 + (s.mem.read 0xFFFE).toNat ∧
      t.sp = s.sp - 3 ∧ t.cycles = s.cycles + 7 ∧ t.a = s.a ∧ t.x = s.x ∧ t.y = s.y ∧
      SameMemoryExcept [hiSlot, loSlot, pSlot] s t ∧ SameOutputs s t ∧ SameControl s t ∧ InputsAfterReads [] s t

/-- R110: `NOP` adds 2 to `cycles` and changes nothing else. Its opcode byte is D1's (log entry 1). -/
def Obligations.NopOnlyCharges : Prop :=
  decodeOpcode Config.opcodes.nop = .nop ∧
  ∀ s : State, ∃ t, exec .nop s = .next t ∧ t.cycles = s.cycles + 2 ∧ { t with cycles := s.cycles } = s

/-- R111, R112: the fallback adds 2 to `cycles`, emits one diagnostic and changes nothing else, for each of the bytes
outside the ten. The diagnostic's address, the opcode's own, is D12's (log entry 13). -/
def Obligations.FallbackReportsAndCharges : Prop :=
  ∀ op : Byte, op ∉ Config.opcodes.bytes → decodeOpcode op = .unimpl op ∧
    ∀ s : State, ∃ t, exec (.unimpl op) s = .next t ∧ t.cycles = s.cycles + 2 ∧
      t.events = s.events ++ [.diag op (s.pc - 1)] ∧ { t with cycles := s.cycles, events := s.events } = s

/-! Whole-machine rules. Where one speaks of a step in any state, a step in Off is among them: it leaves the machine as
it is, by log entry 10. Steps, ticks and host calls are taken with any record of opcode bytes, of which `step` is the case
`Config.opcodes`. -/

/-- Every step keeps the invariant: canonical memory, buffers at their sizes (R20, R22), U set (R16); for `step`, and for
the step with any record of opcode bytes. -/
def Obligations.StepKeepsTheInvariant : Prop :=
  (∀ s t : State, Inv s → step s = .next t → Inv t) ∧
  (∀ (m : OpcodeMap) (s t : State), Inv s → stepWith m s = .next t → Inv t)

/-- The state after reset meets the invariant. -/
def Obligations.ResetMeetsTheInvariant : Prop := Inv State.reset

/-- Every run of host calls, ticks with arrivals among them, keeps the invariant, and only an image past the end of
memory makes it refuse (R161 to R171; the refusal is D13's, log entry 16). -/
def Obligations.HostCallsKeepTheInvariant : Prop :=
  ∀ (m : OpcodeMap) (cs : List HostCall) (s : State), Inv s →
    (∃ t, hostCalls m cs s = .next t ∧ Inv t) ∨
    (hostCalls m cs s = .refused .romPastEnd ∧
      ∃ bytes, HostCall.loadROM bytes ∈ cs ∧ 65536 < 0x8000 + bytes.length)

/-- R163, R169, R173: from construction over any memory, an image that fits and then `powerOn` give a running machine
that meets the invariant, with `PC` from the reset vector. That `powerOn` leaves the FIFOs alone is D6's (log entry 25),
and the callback log entry 30's. -/
def Obligations.BootReachesARunningMachine : Prop :=
  ∀ (memInit : Memory) (txCallback : Bool) (image : List Byte) (loaded : Vector Byte 256), memInit.wf = true →
    0x8000 + image.length ≤ 65536 →
    ∃ s t, loadROM image (construct memInit txCallback) = .next s ∧ powerOn loaded s = (true, t) ∧ Inv t ∧ t.power = .on ∧
      t.pc.toNat = (s.mem.read 0xFFFD).toNat * 256 + (s.mem.read 0xFFFC).toNat ∧ t.sp = 0xFF ∧ t.p = 0x20 ∧
      t.cycles = 0 ∧ t.mem = s.mem ∧ t.settings = loaded.toList ∧ t.uartRx = [] ∧ t.kbd = [] ∧ t.uartTxLog = [] ∧
      t.txCallback = txCallback

/-- R11, R12, R13: A, X and Y are each written by their own load and by no other instruction. -/
def Obligations.OnlyItsLoadWritesARegister : Prop :=
  ∀ (i : Instr) (s t : State), exec i s = .next t →
    (i ≠ .ldaImm → t.a = s.a) ∧ (i ≠ .ldxImm → t.x = s.x) ∧ (i ≠ .ldyImm → t.y = s.y)

/-- R16, R18: no instruction writes C, D, B, U or V; only `BRK` writes I, and sets it; only the loads write Z and N. -/
def Obligations.FlagsChangeOnlyAsTabled : Prop :=
  ∀ (i : Instr) (s t : State), exec i s = .next t →
    (∀ j, j ≠ Config.flagBits.z → j ≠ Config.flagBits.n → j ≠ Config.flagBits.i → getFlag j t.p = getFlag j s.p) ∧
    (getFlag Config.flagBits.i t.p = (decide (i = .brk) || getFlag Config.flagBits.i s.p)) ∧
    (i ≠ .ldaImm → i ≠ .ldxImm → i ≠ .ldyImm →
      getFlag Config.flagBits.z t.p = getFlag Config.flagBits.z s.p ∧
      getFlag Config.flagBits.n t.p = getFlag Config.flagBits.n s.p)

/-- R15: `SP` moves by two down in `JSR`, three down in `BRK`, two up in `RTS`, and no other instruction moves it. -/
def Obligations.StackPointerMovesOnlyAsStated : Prop :=
  ∀ (i : Instr) (s t : State), exec i s = .next t →
    t.sp = match i with
      | .jsr => s.sp - 2
      | .brk => s.sp - 3
      | .rts => s.sp + 2
      | .ldaImm => s.sp
      | .ldxImm => s.sp
      | .ldyImm => s.sp
      | .staZp => s.sp
      | .staAbs => s.sp
      | .jmpAbs => s.sp
      | .nop => s.sp
      | .unimpl _ => s.sp

/-- R190: the cost table, whatever the operands, addresses and devices; `CpuReset` costs nothing and clears the
counter. -/
def Obligations.EveryInstructionAddsItsFixedCost : Prop :=
  (∀ (i : Instr) (s t : State), exec i s = .next t →
    t.cycles = s.cycles + match i with
      | .brk => 7
      | .ldaImm => 2
      | .ldxImm => 2
      | .ldyImm => 2
      | .staZp => 3
      | .staAbs => 4
      | .jmpAbs => 3
      | .jsr => 6
      | .rts => 6
      | .nop => 2
      | .unimpl _ => 2) ∧
  (∀ s : State, (cpuReset s).cycles = 0)

/-- R30, R144: a step only adds to the transmit log; with an outbound callback registered every byte it adds goes out as
one `Tx` event, in order, and with none no byte goes out. -/
def Obligations.TransmitLogOnlyGrows : Prop :=
  ∀ (m : OpcodeMap) (s t : State), stepWith m s = .next t → ∃ bytes events, t.uartTxLog = s.uartTxLog ++ bytes ∧
    t.events = s.events ++ events ∧ events.filterMap Event.sent = if s.txCallback then bytes else []

/-- R111, U1: a step emits a diagnostic exactly when it runs an unimplemented opcode. -/
def Obligations.DiagnosticsComeFromTheFallbackOnly : Prop :=
  ∀ (i : Instr) (s t : State), exec i s = .next t → NoDiag s →
    (NoDiag t ↔ ∀ op, i ≠ .unimpl op)

/-- R22, R23, R30, R134: no step changes what the controller holds. That the cursor and its visibility are state at all,
and that only `powerOn` touches them, is the model's choice (log entry 7; R22: no bus address reaches them), and so is that a registered callback stays
(log entry 30). -/
def Obligations.StepsNeverTouchControlState : Prop :=
  ∀ (m : OpcodeMap) (s t : State), stepWith m s = .next t → SameControl s t

/-- R12, R13: nothing reads X or Y: two machines that differ only there do the same step, and differ only there. -/
def Obligations.IndexRegistersAreNeverRead : Prop :=
  ∀ (m : OpcodeMap) (s t : State) (x y : Byte), stepWith m s = .next t →
    ∃ t', stepWith m { s with x := x, y := y } = .next t' ∧ { t' with x := t.x, y := t.y } = t

/-- R30 (a): the bytes of flat memory under a window are invisible: two machines whose memories differ only there do
the same step, and their memories differ only there afterwards. -/
def Obligations.BytesUnderWindowsAreInvisible : Prop :=
  ∀ (c : OpcodeMap) (s t : State) (m : Memory), s.mem.wf = true → m.wf = true →
    (∀ a : Addr, regionOf a = .flat → m.read a.toNat = s.mem.read a.toNat) → stepWith c s = .next t →
    ∃ t', stepWith c { s with mem := m } = .next t' ∧ { t' with mem := t.mem } = t ∧
      ∀ a : Addr, t'.mem.read a.toNat = if regionOf a = .flat then t.mem.read a.toNat else m.read a.toNat

/-! Reset, the controller and the run loop (70_reset_and_hazards.md). -/

/-- R160: `CpuReset` from any state. That A, X and Y are cleared is the resolution of conflict C1 (log entry 3). -/
def Obligations.CpuResetSetsTheRegisters : Prop :=
  ∀ s : State,
    let t := cpuReset s
    t.a = 0 ∧ t.x = 0 ∧ t.y = 0 ∧ t.sp = 0xFF ∧ t.p = 0x20 ∧ t.cycles = 0 ∧
    t.pc.toNat = (s.mem.read 0xFFFD).toNat * 256 + (s.mem.read 0xFFFC).toNat ∧
    SameMemoryExcept [] s t ∧ SameOutputs s t ∧ SameControl s t ∧ InputsAfterReads [] s t

/-- R163: `powerOn` fails without a ROM and changes nothing; otherwise it enters On, resets the CPU, clears the screen
and loads the settings, and keeps memory and the FIFOs. The origin as row 0, column 0 is log entry 7's, A, X and Y
cleared is the resolution of conflict C1 (log entry 3), and FIFOs and transmit log kept is D6's (log entry 25). That the callback stays is log entry 30's. -/
def Obligations.PowerOnNeedsARom : Prop :=
  (∀ (loaded : Vector Byte 256) (s : State), s.romLoaded = false → powerOn loaded s = (false, s)) ∧
  (∀ (loaded : Vector Byte 256) (s : State), s.romLoaded = true → ∃ t, powerOn loaded s = (true, t) ∧
    t.power = .on ∧ t.romLoaded = true ∧ t.cursor = ⟨0, 0⟩ ∧ t.settings = loaded.toList ∧
    (t.video.length = 1920 ∧ ∀ b ∈ t.video, b = Config.blank ∧ b ≠ 0) ∧
    (t.attr.length = 1920 ∧ ∀ b ∈ t.attr, b = Config.attrClear) ∧
    t.a = 0 ∧ t.x = 0 ∧ t.y = 0 ∧ t.sp = 0xFF ∧ t.p = 0x20 ∧ t.cycles = 0 ∧
    t.pc.toNat = (s.mem.read 0xFFFD).toNat * 256 + (s.mem.read 0xFFFC).toNat ∧
    SameMemoryExcept [] s t ∧ InputsAfterReads [] s t ∧ t.uartTxLog = s.uartTxLog ∧ t.events = s.events ∧
    t.txCallback = s.txCallback)

/-- R164: `powerOff` enters Off and keeps everything else; every later tick is a no-op. -/
def Obligations.PowerOffKeepsEverythingElse : Prop :=
  ∀ s : State, (powerOff s).power = .off ∧ { powerOff s with power := s.power } = s ∧
    ∀ (m : OpcodeMap) (budget : Nat) (arrivals : List (List Arrival)), tick m budget arrivals (powerOff s) = .next (powerOff s)

/-- R165: the controller's `reset()` has no effect in Off; in On it resets the CPU and clears the screen, and keeps
memory, settings and the FIFOs. A, X and Y cleared is the resolution of conflict C1 (log entry 3), FIFOs and transmit
log kept is D6's (log entry 25), and the cursor kept, which R169 leaves not stated, is the model's choice (log entry 7), as is the callback kept (log entry
30). -/
def Obligations.ControllerResetKeepsMemoryAndSettings : Prop :=
  (∀ s : State, s.power = .off → controllerReset s = s) ∧
  (∀ s : State, s.power = .on →
    let t := controllerReset s
    t.a = 0 ∧ t.x = 0 ∧ t.y = 0 ∧ t.sp = 0xFF ∧ t.p = 0x20 ∧ t.cycles = 0 ∧
    t.pc.toNat = (s.mem.read 0xFFFD).toNat * 256 + (s.mem.read 0xFFFC).toNat ∧
    (t.video.length = 1920 ∧ ∀ b ∈ t.video, b = Config.blank) ∧
    (t.attr.length = 1920 ∧ ∀ b ∈ t.attr, b = Config.attrClear) ∧
    SameMemoryExcept [] s t ∧ t.settings = s.settings ∧ t.uartTxLog = s.uartTxLog ∧ t.events = s.events ∧
    SameControl s t ∧ InputsAfterReads [] s t)

/-- R46, R162: `loadROM` writes the image to flat memory under whatever window covers it, marks ROM loaded and changes
nothing else; past the end of memory it is refused (D13, log entry 16). -/
def Obligations.LoadRomWritesUnderTheWindows : Prop :=
  (∀ (offset : Nat) (bytes : List Byte) (s : State), s.mem.wf = true → offset + bytes.length ≤ 65536 →
    ∃ t, loadROMAt offset bytes s = .next t ∧ t.romLoaded = true ∧
      (∀ i (h : i < bytes.length), t.mem.read (offset + i) = bytes[i]) ∧
      (∀ k, (k < offset ∨ offset + bytes.length ≤ k) → t.mem.read k = s.mem.read k) ∧ t.mem.wf = true ∧
      { t with mem := s.mem, romLoaded := s.romLoaded } = s) ∧
  (∀ (offset : Nat) (bytes : List Byte) (s : State), 65536 < offset + bytes.length →
    loadROMAt offset bytes s = .refused .romPastEnd) ∧
  (∀ (bytes : List Byte) (s : State), loadROM bytes s = loadROMAt 0x8000 bytes s)

/-- R166, R170: a tick in Off does nothing; in On it returns with at least its budget and at most 6 cycles more used,
whatever arrives meanwhile, and a budget of 0 executes nothing (D9, log entry 21). -/
def Obligations.TickOvershootsByAtMostSix : Prop :=
  (∀ (m : OpcodeMap) (budget : Nat) (arrivals : List (List Arrival)) (s : State), s.power = .off →
    tick m budget arrivals s = .next s) ∧
  (∀ (m : OpcodeMap) (budget : Nat) (arrivals : List (List Arrival)) (s : State), s.power = .on →
    ∃ t, tick m budget arrivals s = .next t ∧ (budget = 0 → t = s) ∧
      s.cycles + budget ≤ t.cycles ∧ (1 ≤ budget → t.cycles ≤ s.cycles + budget + 6))

/-- R144 to R149: whatever a FIFO holds, what it is given goes behind it and nothing else changes; reading its data
register gives all of it in order, with nothing else changed, and then 0; its status register shows whether it is empty
and changes nothing. UART status bits 7 to 2 are D11's (log entry 14). -/
def Obligations.FifosDeliverInOrder : Prop :=
  (∀ (m : OpcodeMap) (bytes : List Byte) (s : State),
    let t := receiveFromHost bytes s
    hostCall m (.arrival (.received bytes)) s = .next t ∧
    t.uartRx = s.uartRx ++ bytes ∧ { t with uartRx := s.uartRx } = s ∧
    readTimes 0x3000 (s.uartRx.length + bytes.length) t = (s.uartRx ++ bytes, { s with uartRx := [] })) ∧
  (∀ s : State,
    busRead 0x3001 s = (if s.uartRx = [] then 0x01 else 0x03, s) ∧
    (s.uartRx = [] → busRead 0x3000 s = (0x00, s))) ∧
  (∀ (m : OpcodeMap) (b : Byte) (s : State),
    let t := enqueueKey b s
    hostCall m (.arrival (.key b)) s = .next t ∧
    t.kbd = s.kbd ++ [b] ∧ { t with kbd := s.kbd } = s ∧
    readTimes 0x3002 (s.kbd.length + 1) t = (s.kbd ++ [b], { s with kbd := [] })) ∧
  (∀ s : State,
    busRead 0x3003 s = (if s.kbd = [] then 0x00 else 0x01, s) ∧
    (s.kbd = [] → busRead 0x3002 s = (0x00, s)))

/-- R151 (D6, log entry 25): no reset and no power operation empties a FIFO or the transmit log. -/
def Obligations.FifosSurviveEveryReset : Prop :=
  ∀ (loaded : Vector Byte 256) (s t : State),
    t = cpuReset s ∨ t = (powerOn loaded s).2 ∨ t = powerOff s ∨ t = controllerReset s →
    t.uartRx = s.uartRx ∧ t.kbd = s.kbd ∧ t.uartTxLog = s.uartTxLog

/-- The model's choice of `State.reset` (log entries 4, 6, 9, 30): it is what construction, an empty image and
`powerOn` give. -/
def Obligations.ResetIsTheBootOfAnEmptyImage : Prop :=
  ∃ s, loadROM [] (construct [] true) = .next s ∧ powerOn (Vector.replicate 256 0x00) s = (true, State.reset)

/-- R57, R166, R170: a tick in On with any budget left lets the first arrivals land (in order, D22, log entry 19), runs
one step on the result, and is then the tick of what is left of the budget, from the state the step answered and with
the later arrivals; with nothing left it ends there (D9, log entry 21). -/
def Obligations.TickRunsStepsTowardsItsGoal : Prop :=
  (∀ (m : OpcodeMap) (budget : Nat) (arrivals : List (List Arrival)) (s : State), s.power = .on → 1 ≤ budget →
    ∃ t, stepWith m (arriveAll (arrivals.headD []) s) = .next t ∧ t.power = .on ∧
      tick m budget arrivals s = tick m (s.cycles + budget - t.cycles) arrivals.tail t) ∧
  (∀ (m : OpcodeMap) (arrivals : List (List Arrival)) (s : State), tick m 0 arrivals s = .next s) ∧
  (∀ s : State, arriveAll [] s = s) ∧
  (∀ (r : Arrival) (rs : List Arrival) (s : State), arriveAll (r :: rs) s = arriveAll rs (arrive r s)) ∧
  (∀ (b : Byte) (s : State), arrive (.key b) s = { s with kbd := s.kbd ++ [b] }) ∧
  (∀ (bytes : List Byte) (s : State), arrive (.received bytes) s = { s with uartRx := s.uartRx ++ bytes })
end

