-- ==== Sys2Proof/Laws/Flags.lean ====
section
/-! SUPPORT. Reading one flag after writing another (10_state.md R16, R24). -/

namespace Sys2Proof.Machine

theorem getLsbD_flagMask (i j : Nat) (hi : i < 8) : (flagMask i).getLsbD j = decide (j = i) := by
  rw [Bool.eq_iff_iff]
  simp [flagMask, BitVec.getLsbD_shiftLeft]
  omega

/-- Setting one bit of `P` is seen at that bit and at no other. -/
theorem getFlag_setFlag (i j : Nat) (b : Bool) (p : Byte) (hi : i < 8) :
    getFlag j (setFlag i b p) = if j = i then b else getFlag j p := by
  unfold getFlag setFlag
  by_cases h : j = i
  · subst h
    cases b <;> simp [getLsbD_flagMask _ _ hi]
  · cases b
    · by_cases hj : j < 8
      · rw [if_neg (by decide), if_neg h, BitVec.getLsbD_and, BitVec.getLsbD_not, getLsbD_flagMask _ _ hi]
        simp [h, hj]
      · simp [BitVec.getLsbD_of_ge _ _ (Nat.le_of_not_lt hj), h]
    · simp [getLsbD_flagMask _ _ hi, h]

/-- R24, flag by flag. -/
theorem getFlag_updateZN (j : Nat) (v p : Byte) :
    getFlag j (updateZN v p) =
      if j = Config.flagBits.n then v.getLsbD 7 else if j = Config.flagBits.z then v == 0 else getFlag j p := by
  rw [updateZN, getFlag_setFlag _ _ _ _ (by decide), getFlag_setFlag _ _ _ _ (by decide)]

end Sys2Proof.Machine
end

