-- ==== Sys2Proof/Laws/Memory.lean ====
section
/-! SUPPORT. Flat memory: read after write, and the canonical form kept by every operation (10_state.md R20,
20_memory.md R61). -/

namespace Sys2Proof.Machine

theorem Memory.wfFrom_cons (lo k : Nat) (b : Byte) (m : Memory) :
    Memory.wfFrom lo ((k, b) :: m) = true ↔
      lo ≤ k ∧ k < Config.memSize ∧ b ≠ Memory.unlisted k ∧ Memory.wfFrom (k + 1) m = true := by
  simp [Memory.wfFrom, Bool.and_eq_true, and_assoc]

/-- A canonical memory is canonical from any lower address. -/
theorem Memory.wfFrom_mono {lo lo' : Nat} {m : Memory} (h : Memory.wfFrom lo m = true) (hle : lo' ≤ lo) :
    Memory.wfFrom lo' m = true := by
  cases m with
  | nil => rfl
  | cons c rest =>
    obtain ⟨k, b⟩ := c
    rw [Memory.wfFrom_cons] at h ⊢
    exact ⟨by omega, h.2⟩

/-- Nothing is listed below where the canonical form begins. -/
theorem Memory.read_below {lo a : Nat} {m : Memory} (h : Memory.wfFrom lo m = true) (ha : a < lo) :
    m.read a = Memory.unlisted a := by
  cases m with
  | nil => rfl
  | cons c rest =>
    obtain ⟨k, b⟩ := c
    rw [Memory.wfFrom_cons] at h
    simp [Memory.read, show ¬ k < a by omega, show ¬ k = a by omega]

theorem Memory.read_cons_self (a : Nat) (v : Byte) {m : Memory} (h : Memory.wfFrom (a + 1) m = true) :
    (Memory.cons a v m).read a = v := by
  unfold Memory.cons
  split
  · next hv => rw [Memory.read_below h (by omega), hv]
  · simp [Memory.read]

theorem Memory.read_cons_other {a k : Nat} (v : Byte) {m : Memory} (h : Memory.wfFrom (a + 1) m = true)
    (hk : k ≠ a) : (Memory.cons a v m).read k = m.read k := by
  unfold Memory.cons
  split
  · rfl
  · by_cases hlt : a < k
    · simp [Memory.read, hlt]
    · rw [Memory.read_below h (by omega)]
      simp [Memory.read, hlt, Ne.symm hk]

theorem Memory.wfFrom_consCell {lo a : Nat} (v : Byte) {m : Memory} (hlo : lo ≤ a) (ha : a < Config.memSize)
    (h : Memory.wfFrom (a + 1) m = true) : Memory.wfFrom lo (Memory.cons a v m) = true := by
  unfold Memory.cons
  split
  · exact Memory.wfFrom_mono h (by omega)
  · next hv => exact (Memory.wfFrom_cons lo a v m).2 ⟨hlo, ha, hv, h⟩

/-- What a write does to a canonical memory, said once. -/
theorem Memory.write_spec {lo a : Nat} (v : Byte) {m : Memory} (h : Memory.wfFrom lo m = true) (hlo : lo ≤ a)
    (ha : a < Config.memSize) :
    Memory.wfFrom lo (m.write a v) = true ∧ (m.write a v).read a = v ∧
      ∀ k, k ≠ a → (m.write a v).read k = m.read k := by
  induction m generalizing lo with
  | nil =>
    exact ⟨Memory.wfFrom_consCell v hlo ha rfl, Memory.read_cons_self a v rfl,
      fun k hk => Memory.read_cons_other v rfl hk⟩
  | cons c rest ih =>
    obtain ⟨k0, b⟩ := c
    have hc := (Memory.wfFrom_cons lo k0 b rest).1 h
    simp only [Memory.write]
    split
    · next hlt =>
      obtain ⟨i1, i2, i3⟩ := ih hc.2.2.2 (by omega)
      refine ⟨(Memory.wfFrom_cons lo k0 b _).2 ⟨hc.1, hc.2.1, hc.2.2.1, i1⟩, by simp [Memory.read, hlt, i2], ?_⟩
      intro k hk
      by_cases hk0 : k0 < k
      · simp [Memory.read, hk0, i3 k hk]
      · simp [Memory.read, hk0]
    · next hge =>
      split
      · next he =>
        subst he
        refine ⟨Memory.wfFrom_consCell v hc.1 ha hc.2.2.2, Memory.read_cons_self _ v hc.2.2.2, fun k hk => ?_⟩
        rw [Memory.read_cons_other v hc.2.2.2 hk]
        by_cases hlt : k0 < k
        · simp [Memory.read, hlt]
        · rw [Memory.read_below hc.2.2.2 (by omega)]
          simp [Memory.read, hlt, Ne.symm hk]
      · next hne =>
        have hm : Memory.wfFrom (a + 1) ((k0, b) :: rest) = true :=
          (Memory.wfFrom_cons _ k0 b rest).2 ⟨by omega, hc.2⟩
        exact ⟨Memory.wfFrom_consCell v hlo ha hm, Memory.read_cons_self a v hm,
          fun k hk => Memory.read_cons_other v hm hk⟩

theorem Memory.wf_write {m : Memory} (h : m.wf = true) {a : Nat} (ha : a < 65536) (v : Byte) :
    (m.write a v).wf = true :=
  (Memory.write_spec v h (Nat.zero_le a) ha).1

theorem Memory.read_write_self {m : Memory} (h : m.wf = true) {a : Nat} (ha : a < 65536) (v : Byte) :
    (m.write a v).read a = v :=
  (Memory.write_spec v h (Nat.zero_le a) ha).2.1

theorem Memory.read_write_other {m : Memory} (h : m.wf = true) {a : Nat} (ha : a < 65536) (v : Byte) {k : Nat}
    (hk : k ≠ a) : (m.write a v).read k = m.read k :=
  (Memory.write_spec v h (Nat.zero_le a) ha).2.2 k hk

theorem Memory.read_write {m : Memory} (h : m.wf = true) {a : Nat} (ha : a < 65536) (v : Byte) (k : Nat) :
    (m.write a v).read k = if k = a then v else m.read k := by
  split
  · next hk => rw [hk, Memory.read_write_self h ha]
  · next hk => exact Memory.read_write_other h ha v hk

/-- What loading an image does to a canonical memory, said once (R46). -/
theorem Memory.load_spec (bs : List Byte) :
    ∀ {m : Memory} {a : Nat}, m.wf = true → a + bs.length ≤ 65536 →
      (m.load a bs).wf = true ∧ (∀ i (h : i < bs.length), (m.load a bs).read (a + i) = bs[i]) ∧
        ∀ k, k < a ∨ a + bs.length ≤ k → (m.load a bs).read k = m.read k := by
  induction bs with
  | nil => exact fun h _ => ⟨h, fun _ hi => absurd hi (Nat.not_lt_zero _), fun _ _ => rfl⟩
  | cons b bs ih =>
    intro m a h hl
    simp only [List.length_cons] at hl ⊢
    have e : m.load a (b :: bs) = (m.write a b).load (a + 1) bs := rfl
    obtain ⟨i1, i2, i3⟩ := ih (Memory.wf_write h (a := a) (by omega) b) (a := a + 1) (by omega)
    rw [e]
    refine ⟨i1, fun i hi => ?_, fun k hk => ?_⟩
    · cases i with
      | zero => rw [i3 _ (by omega)]; exact Memory.read_write_self h (by omega) b
      | succ i => rw [show a + (i + 1) = a + 1 + i by omega, i2 i (by omega)]; rfl
    · rw [i3 k (by omega), Memory.read_write_other h (by omega) b (by omega)]

end Sys2Proof.Machine
end

