-- ==== Sys2Proof/Laws/State.lean ====
section
/-! SUPPORT. What each named update of the state does to each field: true by definition, in the simp set. -/

namespace Sys2Proof.Machine

@[simp] theorem State.setA_a (s : State) (v : Byte) : (s.setA v).a = v := rfl
@[simp] theorem State.setA_x (s : State) (v : Byte) : (s.setA v).x = s.x := rfl
@[simp] theorem State.setA_y (s : State) (v : Byte) : (s.setA v).y = s.y := rfl
@[simp] theorem State.setA_pc (s : State) (v : Byte) : (s.setA v).pc = s.pc := rfl
@[simp] theorem State.setA_sp (s : State) (v : Byte) : (s.setA v).sp = s.sp := rfl
@[simp] theorem State.setA_p (s : State) (v : Byte) : (s.setA v).p = s.p := rfl
@[simp] theorem State.setA_cycles (s : State) (v : Byte) : (s.setA v).cycles = s.cycles := rfl
@[simp] theorem State.setA_mem (s : State) (v : Byte) : (s.setA v).mem = s.mem := rfl
@[simp] theorem State.setA_video (s : State) (v : Byte) : (s.setA v).video = s.video := rfl
@[simp] theorem State.setA_attr (s : State) (v : Byte) : (s.setA v).attr = s.attr := rfl
@[simp] theorem State.setA_uartRx (s : State) (v : Byte) : (s.setA v).uartRx = s.uartRx := rfl
@[simp] theorem State.setA_uartTxLog (s : State) (v : Byte) : (s.setA v).uartTxLog = s.uartTxLog := rfl
@[simp] theorem State.setA_kbd (s : State) (v : Byte) : (s.setA v).kbd = s.kbd := rfl
@[simp] theorem State.setA_settings (s : State) (v : Byte) : (s.setA v).settings = s.settings := rfl
@[simp] theorem State.setA_cursor (s : State) (v : Byte) : (s.setA v).cursor = s.cursor := rfl
@[simp] theorem State.setA_cursorVisible (s : State) (v : Byte) : (s.setA v).cursorVisible = s.cursorVisible := rfl
@[simp] theorem State.setA_power (s : State) (v : Byte) : (s.setA v).power = s.power := rfl
@[simp] theorem State.setA_romLoaded (s : State) (v : Byte) : (s.setA v).romLoaded = s.romLoaded := rfl
@[simp] theorem State.setA_txCallback (s : State) (v : Byte) : (s.setA v).txCallback = s.txCallback := rfl
@[simp] theorem State.setA_events (s : State) (v : Byte) : (s.setA v).events = s.events := rfl
@[simp] theorem State.setA_draws (s : State) (v : Byte) : (s.setA v).draws = s.draws := rfl

@[simp] theorem State.setX_a (s : State) (v : Byte) : (s.setX v).a = s.a := rfl
@[simp] theorem State.setX_x (s : State) (v : Byte) : (s.setX v).x = v := rfl
@[simp] theorem State.setX_y (s : State) (v : Byte) : (s.setX v).y = s.y := rfl
@[simp] theorem State.setX_pc (s : State) (v : Byte) : (s.setX v).pc = s.pc := rfl
@[simp] theorem State.setX_sp (s : State) (v : Byte) : (s.setX v).sp = s.sp := rfl
@[simp] theorem State.setX_p (s : State) (v : Byte) : (s.setX v).p = s.p := rfl
@[simp] theorem State.setX_cycles (s : State) (v : Byte) : (s.setX v).cycles = s.cycles := rfl
@[simp] theorem State.setX_mem (s : State) (v : Byte) : (s.setX v).mem = s.mem := rfl
@[simp] theorem State.setX_video (s : State) (v : Byte) : (s.setX v).video = s.video := rfl
@[simp] theorem State.setX_attr (s : State) (v : Byte) : (s.setX v).attr = s.attr := rfl
@[simp] theorem State.setX_uartRx (s : State) (v : Byte) : (s.setX v).uartRx = s.uartRx := rfl
@[simp] theorem State.setX_uartTxLog (s : State) (v : Byte) : (s.setX v).uartTxLog = s.uartTxLog := rfl
@[simp] theorem State.setX_kbd (s : State) (v : Byte) : (s.setX v).kbd = s.kbd := rfl
@[simp] theorem State.setX_settings (s : State) (v : Byte) : (s.setX v).settings = s.settings := rfl
@[simp] theorem State.setX_cursor (s : State) (v : Byte) : (s.setX v).cursor = s.cursor := rfl
@[simp] theorem State.setX_cursorVisible (s : State) (v : Byte) : (s.setX v).cursorVisible = s.cursorVisible := rfl
@[simp] theorem State.setX_power (s : State) (v : Byte) : (s.setX v).power = s.power := rfl
@[simp] theorem State.setX_romLoaded (s : State) (v : Byte) : (s.setX v).romLoaded = s.romLoaded := rfl
@[simp] theorem State.setX_txCallback (s : State) (v : Byte) : (s.setX v).txCallback = s.txCallback := rfl
@[simp] theorem State.setX_events (s : State) (v : Byte) : (s.setX v).events = s.events := rfl
@[simp] theorem State.setX_draws (s : State) (v : Byte) : (s.setX v).draws = s.draws := rfl

@[simp] theorem State.setY_a (s : State) (v : Byte) : (s.setY v).a = s.a := rfl
@[simp] theorem State.setY_x (s : State) (v : Byte) : (s.setY v).x = s.x := rfl
@[simp] theorem State.setY_y (s : State) (v : Byte) : (s.setY v).y = v := rfl
@[simp] theorem State.setY_pc (s : State) (v : Byte) : (s.setY v).pc = s.pc := rfl
@[simp] theorem State.setY_sp (s : State) (v : Byte) : (s.setY v).sp = s.sp := rfl
@[simp] theorem State.setY_p (s : State) (v : Byte) : (s.setY v).p = s.p := rfl
@[simp] theorem State.setY_cycles (s : State) (v : Byte) : (s.setY v).cycles = s.cycles := rfl
@[simp] theorem State.setY_mem (s : State) (v : Byte) : (s.setY v).mem = s.mem := rfl
@[simp] theorem State.setY_video (s : State) (v : Byte) : (s.setY v).video = s.video := rfl
@[simp] theorem State.setY_attr (s : State) (v : Byte) : (s.setY v).attr = s.attr := rfl
@[simp] theorem State.setY_uartRx (s : State) (v : Byte) : (s.setY v).uartRx = s.uartRx := rfl
@[simp] theorem State.setY_uartTxLog (s : State) (v : Byte) : (s.setY v).uartTxLog = s.uartTxLog := rfl
@[simp] theorem State.setY_kbd (s : State) (v : Byte) : (s.setY v).kbd = s.kbd := rfl
@[simp] theorem State.setY_settings (s : State) (v : Byte) : (s.setY v).settings = s.settings := rfl
@[simp] theorem State.setY_cursor (s : State) (v : Byte) : (s.setY v).cursor = s.cursor := rfl
@[simp] theorem State.setY_cursorVisible (s : State) (v : Byte) : (s.setY v).cursorVisible = s.cursorVisible := rfl
@[simp] theorem State.setY_power (s : State) (v : Byte) : (s.setY v).power = s.power := rfl
@[simp] theorem State.setY_romLoaded (s : State) (v : Byte) : (s.setY v).romLoaded = s.romLoaded := rfl
@[simp] theorem State.setY_txCallback (s : State) (v : Byte) : (s.setY v).txCallback = s.txCallback := rfl
@[simp] theorem State.setY_events (s : State) (v : Byte) : (s.setY v).events = s.events := rfl
@[simp] theorem State.setY_draws (s : State) (v : Byte) : (s.setY v).draws = s.draws := rfl

@[simp] theorem State.setPc_a (s : State) (v : Addr) : (s.setPc v).a = s.a := rfl
@[simp] theorem State.setPc_x (s : State) (v : Addr) : (s.setPc v).x = s.x := rfl
@[simp] theorem State.setPc_y (s : State) (v : Addr) : (s.setPc v).y = s.y := rfl
@[simp] theorem State.setPc_pc (s : State) (v : Addr) : (s.setPc v).pc = v := rfl
@[simp] theorem State.setPc_sp (s : State) (v : Addr) : (s.setPc v).sp = s.sp := rfl
@[simp] theorem State.setPc_p (s : State) (v : Addr) : (s.setPc v).p = s.p := rfl
@[simp] theorem State.setPc_cycles (s : State) (v : Addr) : (s.setPc v).cycles = s.cycles := rfl
@[simp] theorem State.setPc_mem (s : State) (v : Addr) : (s.setPc v).mem = s.mem := rfl
@[simp] theorem State.setPc_video (s : State) (v : Addr) : (s.setPc v).video = s.video := rfl
@[simp] theorem State.setPc_attr (s : State) (v : Addr) : (s.setPc v).attr = s.attr := rfl
@[simp] theorem State.setPc_uartRx (s : State) (v : Addr) : (s.setPc v).uartRx = s.uartRx := rfl
@[simp] theorem State.setPc_uartTxLog (s : State) (v : Addr) : (s.setPc v).uartTxLog = s.uartTxLog := rfl
@[simp] theorem State.setPc_kbd (s : State) (v : Addr) : (s.setPc v).kbd = s.kbd := rfl
@[simp] theorem State.setPc_settings (s : State) (v : Addr) : (s.setPc v).settings = s.settings := rfl
@[simp] theorem State.setPc_cursor (s : State) (v : Addr) : (s.setPc v).cursor = s.cursor := rfl
@[simp] theorem State.setPc_cursorVisible (s : State) (v : Addr) : (s.setPc v).cursorVisible = s.cursorVisible := rfl
@[simp] theorem State.setPc_power (s : State) (v : Addr) : (s.setPc v).power = s.power := rfl
@[simp] theorem State.setPc_romLoaded (s : State) (v : Addr) : (s.setPc v).romLoaded = s.romLoaded := rfl
@[simp] theorem State.setPc_txCallback (s : State) (v : Addr) : (s.setPc v).txCallback = s.txCallback := rfl
@[simp] theorem State.setPc_events (s : State) (v : Addr) : (s.setPc v).events = s.events := rfl
@[simp] theorem State.setPc_draws (s : State) (v : Addr) : (s.setPc v).draws = s.draws := rfl

@[simp] theorem State.setSp_a (s : State) (v : Byte) : (s.setSp v).a = s.a := rfl
@[simp] theorem State.setSp_x (s : State) (v : Byte) : (s.setSp v).x = s.x := rfl
@[simp] theorem State.setSp_y (s : State) (v : Byte) : (s.setSp v).y = s.y := rfl
@[simp] theorem State.setSp_pc (s : State) (v : Byte) : (s.setSp v).pc = s.pc := rfl
@[simp] theorem State.setSp_sp (s : State) (v : Byte) : (s.setSp v).sp = v := rfl
@[simp] theorem State.setSp_p (s : State) (v : Byte) : (s.setSp v).p = s.p := rfl
@[simp] theorem State.setSp_cycles (s : State) (v : Byte) : (s.setSp v).cycles = s.cycles := rfl
@[simp] theorem State.setSp_mem (s : State) (v : Byte) : (s.setSp v).mem = s.mem := rfl
@[simp] theorem State.setSp_video (s : State) (v : Byte) : (s.setSp v).video = s.video := rfl
@[simp] theorem State.setSp_attr (s : State) (v : Byte) : (s.setSp v).attr = s.attr := rfl
@[simp] theorem State.setSp_uartRx (s : State) (v : Byte) : (s.setSp v).uartRx = s.uartRx := rfl
@[simp] theorem State.setSp_uartTxLog (s : State) (v : Byte) : (s.setSp v).uartTxLog = s.uartTxLog := rfl
@[simp] theorem State.setSp_kbd (s : State) (v : Byte) : (s.setSp v).kbd = s.kbd := rfl
@[simp] theorem State.setSp_settings (s : State) (v : Byte) : (s.setSp v).settings = s.settings := rfl
@[simp] theorem State.setSp_cursor (s : State) (v : Byte) : (s.setSp v).cursor = s.cursor := rfl
@[simp] theorem State.setSp_cursorVisible (s : State) (v : Byte) : (s.setSp v).cursorVisible = s.cursorVisible := rfl
@[simp] theorem State.setSp_power (s : State) (v : Byte) : (s.setSp v).power = s.power := rfl
@[simp] theorem State.setSp_romLoaded (s : State) (v : Byte) : (s.setSp v).romLoaded = s.romLoaded := rfl
@[simp] theorem State.setSp_txCallback (s : State) (v : Byte) : (s.setSp v).txCallback = s.txCallback := rfl
@[simp] theorem State.setSp_events (s : State) (v : Byte) : (s.setSp v).events = s.events := rfl
@[simp] theorem State.setSp_draws (s : State) (v : Byte) : (s.setSp v).draws = s.draws := rfl

@[simp] theorem State.setP_a (s : State) (v : Byte) : (s.setP v).a = s.a := rfl
@[simp] theorem State.setP_x (s : State) (v : Byte) : (s.setP v).x = s.x := rfl
@[simp] theorem State.setP_y (s : State) (v : Byte) : (s.setP v).y = s.y := rfl
@[simp] theorem State.setP_pc (s : State) (v : Byte) : (s.setP v).pc = s.pc := rfl
@[simp] theorem State.setP_sp (s : State) (v : Byte) : (s.setP v).sp = s.sp := rfl
@[simp] theorem State.setP_p (s : State) (v : Byte) : (s.setP v).p = v := rfl
@[simp] theorem State.setP_cycles (s : State) (v : Byte) : (s.setP v).cycles = s.cycles := rfl
@[simp] theorem State.setP_mem (s : State) (v : Byte) : (s.setP v).mem = s.mem := rfl
@[simp] theorem State.setP_video (s : State) (v : Byte) : (s.setP v).video = s.video := rfl
@[simp] theorem State.setP_attr (s : State) (v : Byte) : (s.setP v).attr = s.attr := rfl
@[simp] theorem State.setP_uartRx (s : State) (v : Byte) : (s.setP v).uartRx = s.uartRx := rfl
@[simp] theorem State.setP_uartTxLog (s : State) (v : Byte) : (s.setP v).uartTxLog = s.uartTxLog := rfl
@[simp] theorem State.setP_kbd (s : State) (v : Byte) : (s.setP v).kbd = s.kbd := rfl
@[simp] theorem State.setP_settings (s : State) (v : Byte) : (s.setP v).settings = s.settings := rfl
@[simp] theorem State.setP_cursor (s : State) (v : Byte) : (s.setP v).cursor = s.cursor := rfl
@[simp] theorem State.setP_cursorVisible (s : State) (v : Byte) : (s.setP v).cursorVisible = s.cursorVisible := rfl
@[simp] theorem State.setP_power (s : State) (v : Byte) : (s.setP v).power = s.power := rfl
@[simp] theorem State.setP_romLoaded (s : State) (v : Byte) : (s.setP v).romLoaded = s.romLoaded := rfl
@[simp] theorem State.setP_txCallback (s : State) (v : Byte) : (s.setP v).txCallback = s.txCallback := rfl
@[simp] theorem State.setP_events (s : State) (v : Byte) : (s.setP v).events = s.events := rfl
@[simp] theorem State.setP_draws (s : State) (v : Byte) : (s.setP v).draws = s.draws := rfl

@[simp] theorem State.charge_a (s : State) (n : Nat) : (s.charge n).a = s.a := rfl
@[simp] theorem State.charge_x (s : State) (n : Nat) : (s.charge n).x = s.x := rfl
@[simp] theorem State.charge_y (s : State) (n : Nat) : (s.charge n).y = s.y := rfl
@[simp] theorem State.charge_pc (s : State) (n : Nat) : (s.charge n).pc = s.pc := rfl
@[simp] theorem State.charge_sp (s : State) (n : Nat) : (s.charge n).sp = s.sp := rfl
@[simp] theorem State.charge_p (s : State) (n : Nat) : (s.charge n).p = s.p := rfl
@[simp] theorem State.charge_cycles (s : State) (n : Nat) : (s.charge n).cycles = s.cycles + n := rfl
@[simp] theorem State.charge_mem (s : State) (n : Nat) : (s.charge n).mem = s.mem := rfl
@[simp] theorem State.charge_video (s : State) (n : Nat) : (s.charge n).video = s.video := rfl
@[simp] theorem State.charge_attr (s : State) (n : Nat) : (s.charge n).attr = s.attr := rfl
@[simp] theorem State.charge_uartRx (s : State) (n : Nat) : (s.charge n).uartRx = s.uartRx := rfl
@[simp] theorem State.charge_uartTxLog (s : State) (n : Nat) : (s.charge n).uartTxLog = s.uartTxLog := rfl
@[simp] theorem State.charge_kbd (s : State) (n : Nat) : (s.charge n).kbd = s.kbd := rfl
@[simp] theorem State.charge_settings (s : State) (n : Nat) : (s.charge n).settings = s.settings := rfl
@[simp] theorem State.charge_cursor (s : State) (n : Nat) : (s.charge n).cursor = s.cursor := rfl
@[simp] theorem State.charge_cursorVisible (s : State) (n : Nat) : (s.charge n).cursorVisible = s.cursorVisible := rfl
@[simp] theorem State.charge_power (s : State) (n : Nat) : (s.charge n).power = s.power := rfl
@[simp] theorem State.charge_romLoaded (s : State) (n : Nat) : (s.charge n).romLoaded = s.romLoaded := rfl
@[simp] theorem State.charge_txCallback (s : State) (n : Nat) : (s.charge n).txCallback = s.txCallback := rfl
@[simp] theorem State.charge_events (s : State) (n : Nat) : (s.charge n).events = s.events := rfl
@[simp] theorem State.charge_draws (s : State) (n : Nat) : (s.charge n).draws = s.draws := rfl

@[simp] theorem State.emit_a (s : State) (e : Event) : (s.emit e).a = s.a := rfl
@[simp] theorem State.emit_x (s : State) (e : Event) : (s.emit e).x = s.x := rfl
@[simp] theorem State.emit_y (s : State) (e : Event) : (s.emit e).y = s.y := rfl
@[simp] theorem State.emit_pc (s : State) (e : Event) : (s.emit e).pc = s.pc := rfl
@[simp] theorem State.emit_sp (s : State) (e : Event) : (s.emit e).sp = s.sp := rfl
@[simp] theorem State.emit_p (s : State) (e : Event) : (s.emit e).p = s.p := rfl
@[simp] theorem State.emit_cycles (s : State) (e : Event) : (s.emit e).cycles = s.cycles := rfl
@[simp] theorem State.emit_mem (s : State) (e : Event) : (s.emit e).mem = s.mem := rfl
@[simp] theorem State.emit_video (s : State) (e : Event) : (s.emit e).video = s.video := rfl
@[simp] theorem State.emit_attr (s : State) (e : Event) : (s.emit e).attr = s.attr := rfl
@[simp] theorem State.emit_uartRx (s : State) (e : Event) : (s.emit e).uartRx = s.uartRx := rfl
@[simp] theorem State.emit_uartTxLog (s : State) (e : Event) : (s.emit e).uartTxLog = s.uartTxLog := rfl
@[simp] theorem State.emit_kbd (s : State) (e : Event) : (s.emit e).kbd = s.kbd := rfl
@[simp] theorem State.emit_settings (s : State) (e : Event) : (s.emit e).settings = s.settings := rfl
@[simp] theorem State.emit_cursor (s : State) (e : Event) : (s.emit e).cursor = s.cursor := rfl
@[simp] theorem State.emit_cursorVisible (s : State) (e : Event) : (s.emit e).cursorVisible = s.cursorVisible := rfl
@[simp] theorem State.emit_power (s : State) (e : Event) : (s.emit e).power = s.power := rfl
@[simp] theorem State.emit_romLoaded (s : State) (e : Event) : (s.emit e).romLoaded = s.romLoaded := rfl
@[simp] theorem State.emit_txCallback (s : State) (e : Event) : (s.emit e).txCallback = s.txCallback := rfl
@[simp] theorem State.emit_events (s : State) (e : Event) : (s.emit e).events = s.events ++ [e] := rfl
@[simp] theorem State.emit_draws (s : State) (e : Event) : (s.emit e).draws = s.draws := rfl

end Sys2Proof.Machine
end

