-- ==== Sys2Proof/Laws/Ops.lean ====
section
/-! SUPPORT. What the shared operations do: which fields a Bus read and a Bus write can touch, and the exact effect of
the stack operations, whose page no window covers (10_state.md R25 to R28, 20_memory.md R43, R44). -/

namespace Sys2Proof.Machine

/-- A device read touches nothing but the two input FIFOs and the count of free values (R52). -/
theorem deviceRead_state (port : ReadPort) (addr : Addr) (s : State) :
    (deviceRead port addr s).2 =
      { s with
        uartRx := (deviceRead port addr s).2.uartRx
        kbd := (deviceRead port addr s).2.kbd
        draws := (deviceRead port addr s).2.draws } := by
  cases port <;> simp only [deviceRead, cellRead] <;> first | rfl | (split <;> rfl)

/-- So does any Bus read. -/
theorem busRead_state (addr : Addr) (s : State) :
    (busRead addr s).2 =
      { s with
        uartRx := (busRead addr s).2.uartRx
        kbd := (busRead addr s).2.kbd
        draws := (busRead addr s).2.draws } := by
  unfold busRead busReadVia
  split
  · rfl
  · split
    · exact deviceRead_state _ _ _
    · rfl

/-- R144: the log gains the byte, and the events gain its `Tx` if a callback is registered. -/
theorem transmit_eq (v : Byte) (s : State) :
    transmit v s =
      { s with
        uartTxLog := s.uartTxLog ++ [v]
        events := s.events ++ if s.txCallback then [.tx v] else [] } := by
  unfold transmit
  split <;> simp_all

/-- A device write touches nothing but the device buffers, the transmit log and the events (R52). -/
theorem deviceWrite_state (port : WritePort) (addr : Addr) (v : Byte) (s : State) :
    deviceWrite port addr v s =
      { s with
        mem := (deviceWrite port addr v s).mem
        video := (deviceWrite port addr v s).video
        attr := (deviceWrite port addr v s).attr
        settings := (deviceWrite port addr v s).settings
        uartTxLog := (deviceWrite port addr v s).uartTxLog
        events := (deviceWrite port addr v s).events } := by
  cases port <;> rfl

/-- Any Bus write touches nothing but those and flat memory. -/
theorem busWrite_state (addr : Addr) (v : Byte) (s : State) :
    busWrite addr v s =
      { s with
        mem := (busWrite addr v s).mem
        video := (busWrite addr v s).video
        attr := (busWrite addr v s).attr
        settings := (busWrite addr v s).settings
        uartTxLog := (busWrite addr v s).uartTxLog
        events := (busWrite addr v s).events } := by
  unfold busWrite busWriteVia
  split
  · rfl
  · split
    · exact deviceWrite_state _ _ _ _
    · rfl

@[simp] theorem busRead_a (addr : Addr) (s : State) : (busRead addr s).2.a = s.a := by rw [busRead_state]
@[simp] theorem busRead_x (addr : Addr) (s : State) : (busRead addr s).2.x = s.x := by rw [busRead_state]
@[simp] theorem busRead_y (addr : Addr) (s : State) : (busRead addr s).2.y = s.y := by rw [busRead_state]
@[simp] theorem busRead_pc (addr : Addr) (s : State) : (busRead addr s).2.pc = s.pc := by rw [busRead_state]
@[simp] theorem busRead_sp (addr : Addr) (s : State) : (busRead addr s).2.sp = s.sp := by rw [busRead_state]
@[simp] theorem busRead_p (addr : Addr) (s : State) : (busRead addr s).2.p = s.p := by rw [busRead_state]
@[simp] theorem busRead_cycles (addr : Addr) (s : State) : (busRead addr s).2.cycles = s.cycles := by rw [busRead_state]
@[simp] theorem busRead_mem (addr : Addr) (s : State) : (busRead addr s).2.mem = s.mem := by rw [busRead_state]
@[simp] theorem busRead_video (addr : Addr) (s : State) : (busRead addr s).2.video = s.video := by rw [busRead_state]
@[simp] theorem busRead_attr (addr : Addr) (s : State) : (busRead addr s).2.attr = s.attr := by rw [busRead_state]
@[simp] theorem busRead_uartTxLog (addr : Addr) (s : State) : (busRead addr s).2.uartTxLog = s.uartTxLog := by rw [busRead_state]
@[simp] theorem busRead_settings (addr : Addr) (s : State) : (busRead addr s).2.settings = s.settings := by rw [busRead_state]
@[simp] theorem busRead_cursor (addr : Addr) (s : State) : (busRead addr s).2.cursor = s.cursor := by rw [busRead_state]
@[simp] theorem busRead_cursorVisible (addr : Addr) (s : State) : (busRead addr s).2.cursorVisible = s.cursorVisible := by rw [busRead_state]
@[simp] theorem busRead_power (addr : Addr) (s : State) : (busRead addr s).2.power = s.power := by rw [busRead_state]
@[simp] theorem busRead_romLoaded (addr : Addr) (s : State) : (busRead addr s).2.romLoaded = s.romLoaded := by rw [busRead_state]
@[simp] theorem busRead_txCallback (addr : Addr) (s : State) : (busRead addr s).2.txCallback = s.txCallback := by rw [busRead_state]
@[simp] theorem busRead_events (addr : Addr) (s : State) : (busRead addr s).2.events = s.events := by rw [busRead_state]

@[simp] theorem busWrite_a (addr : Addr) (v : Byte) (s : State) : (busWrite addr v s).a = s.a := by rw [busWrite_state]
@[simp] theorem busWrite_x (addr : Addr) (v : Byte) (s : State) : (busWrite addr v s).x = s.x := by rw [busWrite_state]
@[simp] theorem busWrite_y (addr : Addr) (v : Byte) (s : State) : (busWrite addr v s).y = s.y := by rw [busWrite_state]
@[simp] theorem busWrite_pc (addr : Addr) (v : Byte) (s : State) : (busWrite addr v s).pc = s.pc := by rw [busWrite_state]
@[simp] theorem busWrite_sp (addr : Addr) (v : Byte) (s : State) : (busWrite addr v s).sp = s.sp := by rw [busWrite_state]
@[simp] theorem busWrite_p (addr : Addr) (v : Byte) (s : State) : (busWrite addr v s).p = s.p := by rw [busWrite_state]
@[simp] theorem busWrite_cycles (addr : Addr) (v : Byte) (s : State) : (busWrite addr v s).cycles = s.cycles := by rw [busWrite_state]
@[simp] theorem busWrite_uartRx (addr : Addr) (v : Byte) (s : State) : (busWrite addr v s).uartRx = s.uartRx := by rw [busWrite_state]
@[simp] theorem busWrite_kbd (addr : Addr) (v : Byte) (s : State) : (busWrite addr v s).kbd = s.kbd := by rw [busWrite_state]
@[simp] theorem busWrite_cursor (addr : Addr) (v : Byte) (s : State) : (busWrite addr v s).cursor = s.cursor := by rw [busWrite_state]
@[simp] theorem busWrite_cursorVisible (addr : Addr) (v : Byte) (s : State) : (busWrite addr v s).cursorVisible = s.cursorVisible := by rw [busWrite_state]
@[simp] theorem busWrite_power (addr : Addr) (v : Byte) (s : State) : (busWrite addr v s).power = s.power := by rw [busWrite_state]
@[simp] theorem busWrite_romLoaded (addr : Addr) (v : Byte) (s : State) : (busWrite addr v s).romLoaded = s.romLoaded := by rw [busWrite_state]
@[simp] theorem busWrite_txCallback (addr : Addr) (v : Byte) (s : State) : (busWrite addr v s).txCallback = s.txCallback := by rw [busWrite_state]
@[simp] theorem busWrite_draws (addr : Addr) (v : Byte) (s : State) : (busWrite addr v s).draws = s.draws := by rw [busWrite_state]

/-- R42: nothing is found exactly when no registration contains the address. -/
theorem findHandler_eq_none {hs : List Registration} {addr : Addr} :
    findHandler hs addr = none ↔ ∀ h ∈ hs, h.contains addr = false := by
  induction hs with
  | nil => simp [findHandler]
  | cons h hs ih => cases hc : h.contains addr <;> simp [findHandler, hc, ih]

/-- A read no registration contains is a read of flat memory (R43). -/
theorem busRead_flat {addr : Addr} (h : findHandler deviceMap addr = none) (s : State) :
    busRead addr s = (s.mem.read addr.toNat, s) := by
  simp [busRead, busReadVia, h]

/-- A write no registration contains is a write of flat memory (R44). -/
theorem busWrite_flat {addr : Addr} (h : findHandler deviceMap addr = none) (v : Byte) (s : State) :
    busWrite addr v s = { s with mem := s.mem.write addr.toNat v } := by
  simp [busWrite, busWriteVia, h]

/-- No window covers an address below 0x2000 (R140). -/
theorem findHandler_low {addr : Addr} (h : addr.toNat < 0x2000) : findHandler deviceMap addr = none := by
  rw [findHandler_eq_none]
  simp [deviceMap, Registration.contains, BitVec.le_def]
  omega

/-- No window covers an address from 0x4100 up (R140). -/
theorem findHandler_high {addr : Addr} (h : 0x40FF < addr.toNat) : findHandler deviceMap addr = none := by
  rw [findHandler_eq_none]
  simp [deviceMap, Registration.contains, BitVec.le_def]
  omega

/-- R15: `0x0100 | SP` is `0x0100 + SP`. -/
theorem stackAddr_toNat (sp : Byte) : (stackAddr sp).toNat = 0x0100 + sp.toNat := by
  have h : sp.toNat < 2 ^ 8 := sp.isLt
  rw [stackAddr, BitVec.toNat_or, zext16_toNat]
  have e : Config.stackBase.toNat = 2 ^ 8 * 1 := by decide
  rw [e, ← Nat.two_pow_add_eq_or_of_lt h]

/-- R53: the stack page is flat memory. -/
theorem findHandler_stackAddr (sp : Byte) : findHandler deviceMap (stackAddr sp) = none :=
  findHandler_low (by have := sp.isLt; rw [stackAddr_toNat]; omega)

/-- R25, exactly. -/
theorem push_eq (b : Byte) (s : State) :
    push b s = { s with mem := s.mem.write (0x0100 + s.sp.toNat) b, sp := s.sp - 1 } := by
  simp [push, busWrite_flat (findHandler_stackAddr s.sp), stackAddr_toNat, State.setSp]

/-- R26, exactly. -/
theorem pop_eq (s : State) : pop s = (s.mem.read (0x0100 + (s.sp + 1).toNat), { s with sp := s.sp + 1 }) := by
  rw [← stackAddr_toNat]
  exact busRead_flat (findHandler_stackAddr (s.sp + 1)) { s with sp := s.sp + 1 }

/-- R27, exactly. -/
theorem pushWord_eq (w : Addr) (s : State) :
    pushWord w s =
      { s with
        mem := (s.mem.write (0x0100 + s.sp.toNat) (hiByte w)).write (0x0100 + (s.sp - 1).toNat) (loByte w)
        sp := s.sp - 2 } := by
  have h : s.sp - 1 - 1 = s.sp - 2 := by ring
  simp only [pushWord, push_eq, h]

/-- R28, exactly. -/
theorem popWord_eq (s : State) :
    popWord s =
      (wordOf (s.mem.read (0x0100 + (s.sp + 2).toNat)) (s.mem.read (0x0100 + (s.sp + 1).toNat)),
        { s with sp := s.sp + 2 }) := by
  have h : s.sp + 1 + 1 = s.sp + 2 := by ring
  simp only [popWord, pop_eq, h]

/-- Reading a word from the break vector or the reset vector reads flat memory and changes nothing (R124). -/
theorem readWord_high {addr : Addr} (h : 0x40FF < addr.toNat) (h' : addr.toNat < 0xFFFF) (s : State) :
    readWord addr s = (wordOf (s.mem.read (addr.toNat + 1)) (s.mem.read addr.toNat), s) := by
  have e : (addr + 1).toNat = addr.toNat + 1 := by
    rw [BitVec.toNat_add]
    simp
    omega
  simp only [readWord, busRead_flat (findHandler_high h),
    busRead_flat (addr := addr + 1) (findHandler_high (by omega)), e]

/-- R126, exactly: what taking the break leaves. -/
theorem takeBreak_eq (s : State) :
    takeBreak s =
      let m := ((s.mem.write (0x0100 + s.sp.toNat) (hiByte (s.pc + 1))).write (0x0100 + (s.sp - 1).toNat)
        (loByte (s.pc + 1))).write (0x0100 + (s.sp - 2).toNat) (breakCopy s.p)
      { s with
        mem := m
        sp := s.sp - 3
        p := setFlag Config.flagBits.i true s.p
        pc := wordOf (m.read 0xFFFF) (m.read 0xFFFE) } := by
  have h : s.sp - 2 - 1 = s.sp - 3 := by ring
  simp only [takeBreak, pushWord_eq, push_eq, h]
  rw [readWord_high (by decide) (by decide)]
  rfl

/-- R160, exactly. -/
theorem cpuReset_eq (s : State) :
    cpuReset s =
      { s with
        a := 0x00
        x := 0x00
        y := 0x00
        sp := 0xFF
        p := 0x20
        cycles := 0
        pc := wordOf (s.mem.read 0xFFFD) (s.mem.read 0xFFFC) } := by
  simp only [cpuReset]
  rw [readWord_high (by decide) (by decide)]
  simp [Config.resetVector, Config.spReset, Config.pReset]

/-! Which fields each composed operation keeps. -/

@[simp] theorem readWord_a (addr : Addr) (s : State) : (readWord addr s).2.a = s.a := by simp [readWord]
@[simp] theorem readWord_x (addr : Addr) (s : State) : (readWord addr s).2.x = s.x := by simp [readWord]
@[simp] theorem readWord_y (addr : Addr) (s : State) : (readWord addr s).2.y = s.y := by simp [readWord]
@[simp] theorem readWord_pc (addr : Addr) (s : State) : (readWord addr s).2.pc = s.pc := by simp [readWord]
@[simp] theorem readWord_sp (addr : Addr) (s : State) : (readWord addr s).2.sp = s.sp := by simp [readWord]
@[simp] theorem readWord_p (addr : Addr) (s : State) : (readWord addr s).2.p = s.p := by simp [readWord]
@[simp] theorem readWord_cycles (addr : Addr) (s : State) : (readWord addr s).2.cycles = s.cycles := by simp [readWord]
@[simp] theorem readWord_mem (addr : Addr) (s : State) : (readWord addr s).2.mem = s.mem := by simp [readWord]
@[simp] theorem readWord_video (addr : Addr) (s : State) : (readWord addr s).2.video = s.video := by simp [readWord]
@[simp] theorem readWord_attr (addr : Addr) (s : State) : (readWord addr s).2.attr = s.attr := by simp [readWord]
@[simp] theorem readWord_uartTxLog (addr : Addr) (s : State) : (readWord addr s).2.uartTxLog = s.uartTxLog := by simp [readWord]
@[simp] theorem readWord_settings (addr : Addr) (s : State) : (readWord addr s).2.settings = s.settings := by simp [readWord]
@[simp] theorem readWord_cursor (addr : Addr) (s : State) : (readWord addr s).2.cursor = s.cursor := by simp [readWord]
@[simp] theorem readWord_cursorVisible (addr : Addr) (s : State) : (readWord addr s).2.cursorVisible = s.cursorVisible := by simp [readWord]
@[simp] theorem readWord_power (addr : Addr) (s : State) : (readWord addr s).2.power = s.power := by simp [readWord]
@[simp] theorem readWord_romLoaded (addr : Addr) (s : State) : (readWord addr s).2.romLoaded = s.romLoaded := by simp [readWord]
@[simp] theorem readWord_txCallback (addr : Addr) (s : State) : (readWord addr s).2.txCallback = s.txCallback := by simp [readWord]
@[simp] theorem readWord_events (addr : Addr) (s : State) : (readWord addr s).2.events = s.events := by simp [readWord]

@[simp] theorem pop_a (s : State) : (pop s).2.a = s.a := by simp [pop]
@[simp] theorem pop_x (s : State) : (pop s).2.x = s.x := by simp [pop]
@[simp] theorem pop_y (s : State) : (pop s).2.y = s.y := by simp [pop]
@[simp] theorem pop_pc (s : State) : (pop s).2.pc = s.pc := by simp [pop]
@[simp] theorem pop_p (s : State) : (pop s).2.p = s.p := by simp [pop]
@[simp] theorem pop_cycles (s : State) : (pop s).2.cycles = s.cycles := by simp [pop]
@[simp] theorem pop_mem (s : State) : (pop s).2.mem = s.mem := by simp [pop]
@[simp] theorem pop_video (s : State) : (pop s).2.video = s.video := by simp [pop]
@[simp] theorem pop_attr (s : State) : (pop s).2.attr = s.attr := by simp [pop]
@[simp] theorem pop_uartTxLog (s : State) : (pop s).2.uartTxLog = s.uartTxLog := by simp [pop]
@[simp] theorem pop_settings (s : State) : (pop s).2.settings = s.settings := by simp [pop]
@[simp] theorem pop_cursor (s : State) : (pop s).2.cursor = s.cursor := by simp [pop]
@[simp] theorem pop_cursorVisible (s : State) : (pop s).2.cursorVisible = s.cursorVisible := by simp [pop]
@[simp] theorem pop_power (s : State) : (pop s).2.power = s.power := by simp [pop]
@[simp] theorem pop_romLoaded (s : State) : (pop s).2.romLoaded = s.romLoaded := by simp [pop]
@[simp] theorem pop_txCallback (s : State) : (pop s).2.txCallback = s.txCallback := by simp [pop]
@[simp] theorem pop_events (s : State) : (pop s).2.events = s.events := by simp [pop]

@[simp] theorem popWord_a (s : State) : (popWord s).2.a = s.a := by simp [popWord]
@[simp] theorem popWord_x (s : State) : (popWord s).2.x = s.x := by simp [popWord]
@[simp] theorem popWord_y (s : State) : (popWord s).2.y = s.y := by simp [popWord]
@[simp] theorem popWord_pc (s : State) : (popWord s).2.pc = s.pc := by simp [popWord]
@[simp] theorem popWord_p (s : State) : (popWord s).2.p = s.p := by simp [popWord]
@[simp] theorem popWord_cycles (s : State) : (popWord s).2.cycles = s.cycles := by simp [popWord]
@[simp] theorem popWord_mem (s : State) : (popWord s).2.mem = s.mem := by simp [popWord]
@[simp] theorem popWord_video (s : State) : (popWord s).2.video = s.video := by simp [popWord]
@[simp] theorem popWord_attr (s : State) : (popWord s).2.attr = s.attr := by simp [popWord]
@[simp] theorem popWord_uartTxLog (s : State) : (popWord s).2.uartTxLog = s.uartTxLog := by simp [popWord]
@[simp] theorem popWord_settings (s : State) : (popWord s).2.settings = s.settings := by simp [popWord]
@[simp] theorem popWord_cursor (s : State) : (popWord s).2.cursor = s.cursor := by simp [popWord]
@[simp] theorem popWord_cursorVisible (s : State) : (popWord s).2.cursorVisible = s.cursorVisible := by simp [popWord]
@[simp] theorem popWord_power (s : State) : (popWord s).2.power = s.power := by simp [popWord]
@[simp] theorem popWord_romLoaded (s : State) : (popWord s).2.romLoaded = s.romLoaded := by simp [popWord]
@[simp] theorem popWord_txCallback (s : State) : (popWord s).2.txCallback = s.txCallback := by simp [popWord]
@[simp] theorem popWord_events (s : State) : (popWord s).2.events = s.events := by simp [popWord]

@[simp] theorem fetchOpcode_a (s : State) : (fetchOpcode s).2.a = s.a := by simp [fetchOpcode]
@[simp] theorem fetchOpcode_x (s : State) : (fetchOpcode s).2.x = s.x := by simp [fetchOpcode]
@[simp] theorem fetchOpcode_y (s : State) : (fetchOpcode s).2.y = s.y := by simp [fetchOpcode]
@[simp] theorem fetchOpcode_sp (s : State) : (fetchOpcode s).2.sp = s.sp := by simp [fetchOpcode]
@[simp] theorem fetchOpcode_p (s : State) : (fetchOpcode s).2.p = s.p := by simp [fetchOpcode]
@[simp] theorem fetchOpcode_cycles (s : State) : (fetchOpcode s).2.cycles = s.cycles := by simp [fetchOpcode]
@[simp] theorem fetchOpcode_mem (s : State) : (fetchOpcode s).2.mem = s.mem := by simp [fetchOpcode]
@[simp] theorem fetchOpcode_video (s : State) : (fetchOpcode s).2.video = s.video := by simp [fetchOpcode]
@[simp] theorem fetchOpcode_attr (s : State) : (fetchOpcode s).2.attr = s.attr := by simp [fetchOpcode]
@[simp] theorem fetchOpcode_uartTxLog (s : State) : (fetchOpcode s).2.uartTxLog = s.uartTxLog := by simp [fetchOpcode]
@[simp] theorem fetchOpcode_settings (s : State) : (fetchOpcode s).2.settings = s.settings := by simp [fetchOpcode]
@[simp] theorem fetchOpcode_cursor (s : State) : (fetchOpcode s).2.cursor = s.cursor := by simp [fetchOpcode]
@[simp] theorem fetchOpcode_cursorVisible (s : State) : (fetchOpcode s).2.cursorVisible = s.cursorVisible := by simp [fetchOpcode]
@[simp] theorem fetchOpcode_power (s : State) : (fetchOpcode s).2.power = s.power := by simp [fetchOpcode]
@[simp] theorem fetchOpcode_romLoaded (s : State) : (fetchOpcode s).2.romLoaded = s.romLoaded := by simp [fetchOpcode]
@[simp] theorem fetchOpcode_txCallback (s : State) : (fetchOpcode s).2.txCallback = s.txCallback := by simp [fetchOpcode]
@[simp] theorem fetchOpcode_events (s : State) : (fetchOpcode s).2.events = s.events := by simp [fetchOpcode]

@[simp] theorem fetchImm8_a (s : State) : (fetchImm8 s).2.a = s.a := by simp [fetchImm8]
@[simp] theorem fetchImm8_x (s : State) : (fetchImm8 s).2.x = s.x := by simp [fetchImm8]
@[simp] theorem fetchImm8_y (s : State) : (fetchImm8 s).2.y = s.y := by simp [fetchImm8]
@[simp] theorem fetchImm8_sp (s : State) : (fetchImm8 s).2.sp = s.sp := by simp [fetchImm8]
@[simp] theorem fetchImm8_p (s : State) : (fetchImm8 s).2.p = s.p := by simp [fetchImm8]
@[simp] theorem fetchImm8_cycles (s : State) : (fetchImm8 s).2.cycles = s.cycles := by simp [fetchImm8]
@[simp] theorem fetchImm8_mem (s : State) : (fetchImm8 s).2.mem = s.mem := by simp [fetchImm8]
@[simp] theorem fetchImm8_video (s : State) : (fetchImm8 s).2.video = s.video := by simp [fetchImm8]
@[simp] theorem fetchImm8_attr (s : State) : (fetchImm8 s).2.attr = s.attr := by simp [fetchImm8]
@[simp] theorem fetchImm8_uartTxLog (s : State) : (fetchImm8 s).2.uartTxLog = s.uartTxLog := by simp [fetchImm8]
@[simp] theorem fetchImm8_settings (s : State) : (fetchImm8 s).2.settings = s.settings := by simp [fetchImm8]
@[simp] theorem fetchImm8_cursor (s : State) : (fetchImm8 s).2.cursor = s.cursor := by simp [fetchImm8]
@[simp] theorem fetchImm8_cursorVisible (s : State) : (fetchImm8 s).2.cursorVisible = s.cursorVisible := by simp [fetchImm8]
@[simp] theorem fetchImm8_power (s : State) : (fetchImm8 s).2.power = s.power := by simp [fetchImm8]
@[simp] theorem fetchImm8_romLoaded (s : State) : (fetchImm8 s).2.romLoaded = s.romLoaded := by simp [fetchImm8]
@[simp] theorem fetchImm8_txCallback (s : State) : (fetchImm8 s).2.txCallback = s.txCallback := by simp [fetchImm8]
@[simp] theorem fetchImm8_events (s : State) : (fetchImm8 s).2.events = s.events := by simp [fetchImm8]

@[simp] theorem fetchZp8_a (s : State) : (fetchZp8 s).2.a = s.a := by simp [fetchZp8]
@[simp] theorem fetchZp8_x (s : State) : (fetchZp8 s).2.x = s.x := by simp [fetchZp8]
@[simp] theorem fetchZp8_y (s : State) : (fetchZp8 s).2.y = s.y := by simp [fetchZp8]
@[simp] theorem fetchZp8_sp (s : State) : (fetchZp8 s).2.sp = s.sp := by simp [fetchZp8]
@[simp] theorem fetchZp8_p (s : State) : (fetchZp8 s).2.p = s.p := by simp [fetchZp8]
@[simp] theorem fetchZp8_cycles (s : State) : (fetchZp8 s).2.cycles = s.cycles := by simp [fetchZp8]
@[simp] theorem fetchZp8_mem (s : State) : (fetchZp8 s).2.mem = s.mem := by simp [fetchZp8]
@[simp] theorem fetchZp8_video (s : State) : (fetchZp8 s).2.video = s.video := by simp [fetchZp8]
@[simp] theorem fetchZp8_attr (s : State) : (fetchZp8 s).2.attr = s.attr := by simp [fetchZp8]
@[simp] theorem fetchZp8_uartTxLog (s : State) : (fetchZp8 s).2.uartTxLog = s.uartTxLog := by simp [fetchZp8]
@[simp] theorem fetchZp8_settings (s : State) : (fetchZp8 s).2.settings = s.settings := by simp [fetchZp8]
@[simp] theorem fetchZp8_cursor (s : State) : (fetchZp8 s).2.cursor = s.cursor := by simp [fetchZp8]
@[simp] theorem fetchZp8_cursorVisible (s : State) : (fetchZp8 s).2.cursorVisible = s.cursorVisible := by simp [fetchZp8]
@[simp] theorem fetchZp8_power (s : State) : (fetchZp8 s).2.power = s.power := by simp [fetchZp8]
@[simp] theorem fetchZp8_romLoaded (s : State) : (fetchZp8 s).2.romLoaded = s.romLoaded := by simp [fetchZp8]
@[simp] theorem fetchZp8_txCallback (s : State) : (fetchZp8 s).2.txCallback = s.txCallback := by simp [fetchZp8]
@[simp] theorem fetchZp8_events (s : State) : (fetchZp8 s).2.events = s.events := by simp [fetchZp8]

@[simp] theorem fetchAbs16_a (s : State) : (fetchAbs16 s).2.a = s.a := by simp [fetchAbs16]
@[simp] theorem fetchAbs16_x (s : State) : (fetchAbs16 s).2.x = s.x := by simp [fetchAbs16]
@[simp] theorem fetchAbs16_y (s : State) : (fetchAbs16 s).2.y = s.y := by simp [fetchAbs16]
@[simp] theorem fetchAbs16_sp (s : State) : (fetchAbs16 s).2.sp = s.sp := by simp [fetchAbs16]
@[simp] theorem fetchAbs16_p (s : State) : (fetchAbs16 s).2.p = s.p := by simp [fetchAbs16]
@[simp] theorem fetchAbs16_cycles (s : State) : (fetchAbs16 s).2.cycles = s.cycles := by simp [fetchAbs16]
@[simp] theorem fetchAbs16_mem (s : State) : (fetchAbs16 s).2.mem = s.mem := by simp [fetchAbs16]
@[simp] theorem fetchAbs16_video (s : State) : (fetchAbs16 s).2.video = s.video := by simp [fetchAbs16]
@[simp] theorem fetchAbs16_attr (s : State) : (fetchAbs16 s).2.attr = s.attr := by simp [fetchAbs16]
@[simp] theorem fetchAbs16_uartTxLog (s : State) : (fetchAbs16 s).2.uartTxLog = s.uartTxLog := by simp [fetchAbs16]
@[simp] theorem fetchAbs16_settings (s : State) : (fetchAbs16 s).2.settings = s.settings := by simp [fetchAbs16]
@[simp] theorem fetchAbs16_cursor (s : State) : (fetchAbs16 s).2.cursor = s.cursor := by simp [fetchAbs16]
@[simp] theorem fetchAbs16_cursorVisible (s : State) : (fetchAbs16 s).2.cursorVisible = s.cursorVisible := by simp [fetchAbs16]
@[simp] theorem fetchAbs16_power (s : State) : (fetchAbs16 s).2.power = s.power := by simp [fetchAbs16]
@[simp] theorem fetchAbs16_romLoaded (s : State) : (fetchAbs16 s).2.romLoaded = s.romLoaded := by simp [fetchAbs16]
@[simp] theorem fetchAbs16_txCallback (s : State) : (fetchAbs16 s).2.txCallback = s.txCallback := by simp [fetchAbs16]
@[simp] theorem fetchAbs16_events (s : State) : (fetchAbs16 s).2.events = s.events := by simp [fetchAbs16]

@[simp] theorem push_a (b : Byte) (s : State) : (push b s).a = s.a := by simp [push_eq]
@[simp] theorem push_x (b : Byte) (s : State) : (push b s).x = s.x := by simp [push_eq]
@[simp] theorem push_y (b : Byte) (s : State) : (push b s).y = s.y := by simp [push_eq]
@[simp] theorem push_pc (b : Byte) (s : State) : (push b s).pc = s.pc := by simp [push_eq]
@[simp] theorem push_p (b : Byte) (s : State) : (push b s).p = s.p := by simp [push_eq]
@[simp] theorem push_cycles (b : Byte) (s : State) : (push b s).cycles = s.cycles := by simp [push_eq]
@[simp] theorem push_video (b : Byte) (s : State) : (push b s).video = s.video := by simp [push_eq]
@[simp] theorem push_attr (b : Byte) (s : State) : (push b s).attr = s.attr := by simp [push_eq]
@[simp] theorem push_uartRx (b : Byte) (s : State) : (push b s).uartRx = s.uartRx := by simp [push_eq]
@[simp] theorem push_uartTxLog (b : Byte) (s : State) : (push b s).uartTxLog = s.uartTxLog := by simp [push_eq]
@[simp] theorem push_kbd (b : Byte) (s : State) : (push b s).kbd = s.kbd := by simp [push_eq]
@[simp] theorem push_settings (b : Byte) (s : State) : (push b s).settings = s.settings := by simp [push_eq]
@[simp] theorem push_cursor (b : Byte) (s : State) : (push b s).cursor = s.cursor := by simp [push_eq]
@[simp] theorem push_cursorVisible (b : Byte) (s : State) : (push b s).cursorVisible = s.cursorVisible := by simp [push_eq]
@[simp] theorem push_power (b : Byte) (s : State) : (push b s).power = s.power := by simp [push_eq]
@[simp] theorem push_romLoaded (b : Byte) (s : State) : (push b s).romLoaded = s.romLoaded := by simp [push_eq]
@[simp] theorem push_txCallback (b : Byte) (s : State) : (push b s).txCallback = s.txCallback := by simp [push_eq]
@[simp] theorem push_events (b : Byte) (s : State) : (push b s).events = s.events := by simp [push_eq]
@[simp] theorem push_draws (b : Byte) (s : State) : (push b s).draws = s.draws := by simp [push_eq]

@[simp] theorem pushWord_a (w : Addr) (s : State) : (pushWord w s).a = s.a := by simp [pushWord_eq]
@[simp] theorem pushWord_x (w : Addr) (s : State) : (pushWord w s).x = s.x := by simp [pushWord_eq]
@[simp] theorem pushWord_y (w : Addr) (s : State) : (pushWord w s).y = s.y := by simp [pushWord_eq]
@[simp] theorem pushWord_pc (w : Addr) (s : State) : (pushWord w s).pc = s.pc := by simp [pushWord_eq]
@[simp] theorem pushWord_p (w : Addr) (s : State) : (pushWord w s).p = s.p := by simp [pushWord_eq]
@[simp] theorem pushWord_cycles (w : Addr) (s : State) : (pushWord w s).cycles = s.cycles := by simp [pushWord_eq]
@[simp] theorem pushWord_video (w : Addr) (s : State) : (pushWord w s).video = s.video := by simp [pushWord_eq]
@[simp] theorem pushWord_attr (w : Addr) (s : State) : (pushWord w s).attr = s.attr := by simp [pushWord_eq]
@[simp] theorem pushWord_uartRx (w : Addr) (s : State) : (pushWord w s).uartRx = s.uartRx := by simp [pushWord_eq]
@[simp] theorem pushWord_uartTxLog (w : Addr) (s : State) : (pushWord w s).uartTxLog = s.uartTxLog := by simp [pushWord_eq]
@[simp] theorem pushWord_kbd (w : Addr) (s : State) : (pushWord w s).kbd = s.kbd := by simp [pushWord_eq]
@[simp] theorem pushWord_settings (w : Addr) (s : State) : (pushWord w s).settings = s.settings := by simp [pushWord_eq]
@[simp] theorem pushWord_cursor (w : Addr) (s : State) : (pushWord w s).cursor = s.cursor := by simp [pushWord_eq]
@[simp] theorem pushWord_cursorVisible (w : Addr) (s : State) : (pushWord w s).cursorVisible = s.cursorVisible := by simp [pushWord_eq]
@[simp] theorem pushWord_power (w : Addr) (s : State) : (pushWord w s).power = s.power := by simp [pushWord_eq]
@[simp] theorem pushWord_romLoaded (w : Addr) (s : State) : (pushWord w s).romLoaded = s.romLoaded := by simp [pushWord_eq]
@[simp] theorem pushWord_txCallback (w : Addr) (s : State) : (pushWord w s).txCallback = s.txCallback := by simp [pushWord_eq]
@[simp] theorem pushWord_events (w : Addr) (s : State) : (pushWord w s).events = s.events := by simp [pushWord_eq]
@[simp] theorem pushWord_draws (w : Addr) (s : State) : (pushWord w s).draws = s.draws := by simp [pushWord_eq]

end Sys2Proof.Machine
end

