-- ==== Sys2Proof/Laws/AddressMap.lean ====
section
/-! SUPPORT. The handler list and the address map of 20_memory.md R53 tell the same story: which registration serves
each region, and which addresses a region holds. -/

namespace Sys2Proof.Machine

/-- R42: the closed interval, as numbers. -/
theorem Registration.contains_iff (h : Registration) (a : Addr) :
    h.contains a = true ↔ h.start.toNat ≤ a.toNat ∧ a.toNat ≤ h.stop.toNat := by
  simp [Registration.contains, BitVec.le_def]

/-- R140: dispatch over the seven registrations, as comparisons of numbers. -/
theorem findHandler_deviceMap (a : Addr) :
    findHandler deviceMap a =
      (let n := a.toNat
      if 0x2000 ≤ n ∧ n ≤ 0x27CF then deviceMap[0]?
      else if 0x2800 ≤ n ∧ n ≤ 0x2FCF then deviceMap[1]?
      else if 0x3000 ≤ n ∧ n ≤ 0x3000 then deviceMap[2]?
      else if 0x3001 ≤ n ∧ n ≤ 0x3001 then deviceMap[3]?
      else if 0x3002 ≤ n ∧ n ≤ 0x3002 then deviceMap[4]?
      else if 0x3003 ≤ n ∧ n ≤ 0x3003 then deviceMap[5]?
      else if 0x4000 ≤ n ∧ n ≤ 0x40FF then deviceMap[6]?
      else none) := by
  simp only [findHandler, deviceMap, Registration.contains_iff]
  rfl

/-- The registration that serves each region. -/
def handlerOf : Region → Option Registration
  | .flat => none
  | .video _ => deviceMap[0]?
  | .videoTail => deviceMap[0]?
  | .attr _ => deviceMap[1]?
  | .attrTail => deviceMap[1]?
  | .uartData => deviceMap[2]?
  | .uartStatus => deviceMap[3]?
  | .kbdData => deviceMap[4]?
  | .kbdStatus => deviceMap[5]?
  | .settings _ => deviceMap[6]?

/-- Dispatch finds the registration of the address's region. -/
theorem findHandler_region (a : Addr) : findHandler deviceMap a = handlerOf (regionOf a) := by
  rw [findHandler_deviceMap]
  unfold regionOf
  generalize a.toNat = n
  simp only []
  by_cases c0 : n ≤ 0x1FFF
  · rw [if_pos c0, if_neg (by omega), if_neg (by omega), if_neg (by omega), if_neg (by omega), if_neg (by omega), if_neg (by omega), if_neg (by omega)]; rfl
  rw [if_neg c0]
  by_cases c1 : n ≤ 0x277F
  · rw [if_pos c1, if_pos (by omega)]; rfl
  rw [if_neg c1]
  by_cases c2 : n ≤ 0x27CF
  · rw [if_pos c2, if_pos (by omega)]; rfl
  rw [if_neg c2]
  by_cases c3 : n ≤ 0x27FF
  · rw [if_pos c3, if_neg (by omega), if_neg (by omega), if_neg (by omega), if_neg (by omega), if_neg (by omega), if_neg (by omega), if_neg (by omega)]; rfl
  rw [if_neg c3]
  by_cases c4 : n ≤ 0x2F7F
  · rw [if_pos c4, if_neg (by omega), if_pos (by omega)]; rfl
  rw [if_neg c4]
  by_cases c5 : n ≤ 0x2FCF
  · rw [if_pos c5, if_neg (by omega), if_pos (by omega)]; rfl
  rw [if_neg c5]
  by_cases c6 : n ≤ 0x2FFF
  · rw [if_pos c6, if_neg (by omega), if_neg (by omega), if_neg (by omega), if_neg (by omega), if_neg (by omega), if_neg (by omega), if_neg (by omega)]; rfl
  rw [if_neg c6]
  by_cases c7 : n = 0x3000
  · rw [if_pos c7, if_neg (by omega), if_neg (by omega), if_pos (by omega)]; rfl
  rw [if_neg c7]
  by_cases c8 : n = 0x3001
  · rw [if_pos c8, if_neg (by omega), if_neg (by omega), if_neg (by omega), if_pos (by omega)]; rfl
  rw [if_neg c8]
  by_cases c9 : n = 0x3002
  · rw [if_pos c9, if_neg (by omega), if_neg (by omega), if_neg (by omega), if_neg (by omega), if_pos (by omega)]; rfl
  rw [if_neg c9]
  by_cases c10 : n = 0x3003
  · rw [if_pos c10, if_neg (by omega), if_neg (by omega), if_neg (by omega), if_neg (by omega), if_neg (by omega), if_pos (by omega)]; rfl
  rw [if_neg c10]
  by_cases c11 : n ≤ 0x3FFF
  · rw [if_pos c11, if_neg (by omega), if_neg (by omega), if_neg (by omega), if_neg (by omega), if_neg (by omega), if_neg (by omega), if_neg (by omega)]; rfl
  rw [if_neg c11]
  by_cases c12 : n ≤ 0x40FF
  · rw [if_pos c12, if_neg (by omega), if_neg (by omega), if_neg (by omega), if_neg (by omega), if_neg (by omega), if_neg (by omega), if_pos (by omega)]; rfl
  rw [if_neg c12]
  rw [if_neg (by omega), if_neg (by omega), if_neg (by omega), if_neg (by omega), if_neg (by omega), if_neg (by omega), if_neg (by omega)]; rfl

/-- R53: flat memory is what no registration contains. -/
theorem findHandler_of_flat {a : Addr} (h : regionOf a = .flat) : findHandler deviceMap a = none := by
  rw [findHandler_region, h]; rfl

/-- The addresses of a region, and the bounds of its cells. -/
def Region.holds : Region → Nat → Prop
  | .flat, n => n ≤ 0x1FFF ∨ (0x27D0 ≤ n ∧ n ≤ 0x27FF) ∨ (0x2FD0 ≤ n ∧ n ≤ 0x2FFF) ∨ (0x3004 ≤ n ∧ n ≤ 0x3FFF) ∨ 0x4100 ≤ n
  | .video i, n => n = 0x2000 + i ∧ i < 1920
  | .videoTail, n => 0x2780 ≤ n ∧ n ≤ 0x27CF
  | .attr i, n => n = 0x2800 + i ∧ i < 1920
  | .attrTail, n => 0x2F80 ≤ n ∧ n ≤ 0x2FCF
  | .uartData, n => n = 0x3000
  | .uartStatus, n => n = 0x3001
  | .kbdData, n => n = 0x3002
  | .kbdStatus, n => n = 0x3003
  | .settings i, n => n = 0x4000 + i ∧ i < 256

/-- An address lies where its region says. -/
theorem regionOf_holds (a : Addr) : (regionOf a).holds a.toNat := by
  unfold regionOf
  generalize a.toNat = n
  simp only []
  by_cases c0 : n ≤ 0x1FFF
  · rw [if_pos c0]; simp only [Region.holds]; omega
  rw [if_neg c0]
  by_cases c1 : n ≤ 0x277F
  · rw [if_pos c1]; simp only [Region.holds]; omega
  rw [if_neg c1]
  by_cases c2 : n ≤ 0x27CF
  · rw [if_pos c2]; simp only [Region.holds]; omega
  rw [if_neg c2]
  by_cases c3 : n ≤ 0x27FF
  · rw [if_pos c3]; simp only [Region.holds]; omega
  rw [if_neg c3]
  by_cases c4 : n ≤ 0x2F7F
  · rw [if_pos c4]; simp only [Region.holds]; omega
  rw [if_neg c4]
  by_cases c5 : n ≤ 0x2FCF
  · rw [if_pos c5]; simp only [Region.holds]; omega
  rw [if_neg c5]
  by_cases c6 : n ≤ 0x2FFF
  · rw [if_pos c6]; simp only [Region.holds]; omega
  rw [if_neg c6]
  by_cases c7 : n = 0x3000
  · rw [if_pos c7]; simp only [Region.holds]; omega
  rw [if_neg c7]
  by_cases c8 : n = 0x3001
  · rw [if_pos c8]; simp only [Region.holds]; omega
  rw [if_neg c8]
  by_cases c9 : n = 0x3002
  · rw [if_pos c9]; simp only [Region.holds]; omega
  rw [if_neg c9]
  by_cases c10 : n = 0x3003
  · rw [if_pos c10]; simp only [Region.holds]; omega
  rw [if_neg c10]
  by_cases c11 : n ≤ 0x3FFF
  · rw [if_pos c11]; simp only [Region.holds]; omega
  rw [if_neg c11]
  by_cases c12 : n ≤ 0x40FF
  · rw [if_pos c12]; simp only [Region.holds]; omega
  rw [if_neg c12]
  simp only [Region.holds]; omega

/-- R53: the stack page is flat memory. -/
theorem regionOf_stackAddr (sp : Byte) : regionOf (stackAddr sp) = .flat := by
  have h := sp.isLt
  unfold regionOf
  rw [stackAddr_toNat, if_pos (by omega)]

/-- R48: the `i`-th address of a window gives offset `i`. -/
theorem cellIndex_eq {start a : Addr} {i : Nat} (h : a.toNat = start.toNat + i) : cellIndex start a = i := by
  have h1 := a.isLt
  have h2 := start.isLt
  rw [cellIndex, BitVec.toNat_sub]
  omega

/-- R143: an address at or past the `i`-th gives an offset of at least `i`. -/
theorem cellIndex_ge {start a : Addr} {i : Nat} (h : start.toNat + i ≤ a.toNat) : i ≤ cellIndex start a := by
  have h1 := a.isLt
  have h2 := start.isLt
  rw [cellIndex, BitVec.toNat_sub]
  omega

/-- R72: the zero page is flat memory. -/
theorem regionOf_zext16 (z : Byte) : regionOf (zext16 z) = .flat := by
  have h := z.isLt
  unfold regionOf
  rw [zext16_toNat, if_pos (by omega)]

end Sys2Proof.Machine
end

