-- ==== Sys2Proof/Laws/Controller.lean ====
section
/-! SUPPORT. What inputs do to the machine, and the run loop one step at a time (60_exceptions.md R146, R149,
70_reset_and_hazards.md R170). -/

namespace Sys2Proof.Machine

/-- The bytes an input adds to the UART receive FIFO. -/
def Arrival.rxBytes : Arrival → List Byte
  | .key _ => []
  | .received bytes => bytes

/-- The bytes an input adds to the keyboard FIFO. -/
def Arrival.keyBytes : Arrival → List Byte
  | .key b => [b]
  | .received _ => []

/-- R146, R149: an input appends to its FIFO and does nothing else. -/
theorem arrive_eq (r : Arrival) (s : State) :
    arrive r s = { s with uartRx := s.uartRx ++ r.rxBytes, kbd := s.kbd ++ r.keyBytes } := by
  cases r <;> simp [arrive, enqueueKey, receiveFromHost, Arrival.rxBytes, Arrival.keyBytes]

@[simp] theorem arriveAll_nil (s : State) : arriveAll [] s = s := rfl

@[simp] theorem arriveAll_cons (r : Arrival) (rs : List Arrival) (s : State) :
    arriveAll (r :: rs) s = arriveAll rs (arrive r s) := rfl

/-- All inputs between two steps: each FIFO gains their bytes in order, and nothing else changes. -/
theorem arriveAll_eq (rs : List Arrival) (s : State) :
    arriveAll rs s =
      { s with uartRx := s.uartRx ++ rs.flatMap Arrival.rxBytes, kbd := s.kbd ++ rs.flatMap Arrival.keyBytes } := by
  induction rs generalizing s with
  | nil => simp
  | cons r rs ih => rw [arriveAll_cons, ih, arrive_eq]; simp

/-- R170: once the counter is at the goal the loop ends, whatever bound on steps is left. -/
theorem executeLoop_done {m : OpcodeMap} {goal : Nat} {s : State} (h : goal ≤ s.cycles) (fuel : Nat) (arrivals : List (List Arrival)) :
    executeLoop m fuel goal arrivals s = .next s := by
  cases fuel
  · rfl
  · rw [executeLoop, if_pos h]

/-- R170: below the goal the loop takes a step and goes on. -/
theorem executeLoop_step {m : OpcodeMap} {goal : Nat} {s t : State} (h : s.cycles < goal) (fuel : Nat)
    (arrivals : List (List Arrival)) (ht : cpuStepWith m (arriveAll (arrivals.headD []) s) = .next t) :
    executeLoop m (fuel + 1) goal arrivals s = executeLoop m fuel goal arrivals.tail t := by
  rw [executeLoop, if_neg (Nat.not_le_of_lt h), ht]

end Sys2Proof.Machine
end

