-- ==== Sys2Proof/Laws/Encoding.lean ====
section
/-! SUPPORT. The opcode byte and the row it selects determine each other (30_encoding.md R74, R75, R77), for every
record of pairwise distinct opcode bytes. -/

namespace Sys2Proof

/-- R75: with distinct bytes the dispatch finds each well-formed instruction from its own byte. -/
theorem decodeOpcodeWith_encode (m : OpcodeMap) (hm : m.Distinct) (i : Instr) (hw : i.wellFormedFor m = true) :
    decodeOpcodeWith m (encodeOpcodeWith m i) = i := by
  simp only [OpcodeMap.Distinct, OpcodeMap.bytes, List.nodup_cons, List.mem_cons, List.not_mem_nil, or_false, not_or,
      List.nodup_nil, not_false_eq_true, and_true] at hm
  obtain ⟨⟨h01, h02, h03, h04, h05, h06, h07, h08, h09⟩, ⟨h12, h13, h14, h15, h16, h17, h18, h19⟩, ⟨h23, h24, h25,
      h26, h27, h28, h29⟩, ⟨h34, h35, h36, h37, h38, h39⟩, ⟨h45, h46, h47, h48, h49⟩, ⟨h56, h57, h58, h59⟩, ⟨h67,
      h68, h69⟩, ⟨h78, h79⟩, h89⟩ := hm
  cases i with
  | unimpl op =>
    simp only [Instr.wellFormedFor, OpcodeMap.bytes, Bool.not_eq_true', List.contains_eq_mem, List.mem_cons,
      List.not_mem_nil, or_false, decide_eq_false_iff_not, not_or] at hw
    simp only [decodeOpcodeWith, encodeOpcodeWith, hw, if_false]
  | _ => simp only [decodeOpcodeWith, encodeOpcodeWith, Ne.symm h01, Ne.symm h02, Ne.symm h03, Ne.symm h04,
      Ne.symm h05, Ne.symm h06, Ne.symm h07, Ne.symm h08, Ne.symm h09, Ne.symm h12, Ne.symm h13, Ne.symm h14,
      Ne.symm h15, Ne.symm h16, Ne.symm h17, Ne.symm h18, Ne.symm h19, Ne.symm h23, Ne.symm h24, Ne.symm h25,
      Ne.symm h26, Ne.symm h27, Ne.symm h28, Ne.symm h29, Ne.symm h34, Ne.symm h35, Ne.symm h36, Ne.symm h37,
      Ne.symm h38, Ne.symm h39, Ne.symm h45, Ne.symm h46, Ne.symm h47, Ne.symm h48, Ne.symm h49, Ne.symm h56,
      Ne.symm h57, Ne.symm h58, Ne.symm h59, Ne.symm h67, Ne.symm h68, Ne.symm h69, Ne.symm h78, Ne.symm h79,
      Ne.symm h89, if_false, if_true]

/-- R77: what the dispatch answers is well formed and has the byte as its encoding. -/
theorem decodeOpcodeWith_spec (m : OpcodeMap) (op : Byte) :
    (decodeOpcodeWith m op).wellFormedFor m = true ∧ encodeOpcodeWith m (decodeOpcodeWith m op) = op := by
  unfold decodeOpcodeWith
  repeat' split
  all_goals simp_all [Instr.wellFormedFor, encodeOpcodeWith, OpcodeMap.bytes]

/-- D1: the bytes of the configuration are distinct, so `decodeOpcode` finds each well-formed instruction. -/
theorem decodeOpcode_encodeOpcode (i : Instr) (h : i.wellFormed = true) : decodeOpcode (encodeOpcode i) = i :=
  decodeOpcodeWith_encode Config.opcodes (by decide) i h

end Sys2Proof
end

