-- ==== Sys2Proof/Laws/Exec.lean ====
section
/-! SUPPORT. What an instruction can do, said once per instruction: the state it answers (41 to 44 of spec/), over the
exact forms of the stack operations. -/

namespace Sys2Proof.Machine

theorem exec_brk (s : State) : exec .brk s = .next ((takeBreak s).charge 7) := rfl

theorem exec_ldaImm (s : State) :
    exec .ldaImm s = .next { (busRead s.pc s).2 with
      a := (busRead s.pc s).1, pc := s.pc + 1, p := updateZN (busRead s.pc s).1 s.p, cycles := s.cycles + 2 } := by
  simp [exec, execLdaImm, fetchImm8, State.setA, State.setP, State.setPc, State.charge, Config.costs]

theorem exec_ldxImm (s : State) :
    exec .ldxImm s = .next { (busRead s.pc s).2 with
      x := (busRead s.pc s).1, pc := s.pc + 1, p := updateZN (busRead s.pc s).1 s.p, cycles := s.cycles + 2 } := by
  simp [exec, execLdxImm, fetchImm8, State.setX, State.setP, State.setPc, State.charge, Config.costs]

theorem exec_ldyImm (s : State) :
    exec .ldyImm s = .next { (busRead s.pc s).2 with
      y := (busRead s.pc s).1, pc := s.pc + 1, p := updateZN (busRead s.pc s).1 s.p, cycles := s.cycles + 2 } := by
  simp [exec, execLdyImm, fetchImm8, State.setY, State.setP, State.setPc, State.charge, Config.costs]

theorem exec_staZp (s : State) :
    exec .staZp s = .next ((busWrite (fetchZp8 s).1 s.a (fetchZp8 s).2).charge 3) := by
  simp [exec, execStaZp, Config.costs]

theorem exec_staAbs (s : State) :
    exec .staAbs s = .next ((busWrite (fetchAbs16 s).1 s.a (fetchAbs16 s).2).charge 4) := by
  simp [exec, execStaAbs, Config.costs]

theorem exec_jmpAbs (s : State) :
    exec .jmpAbs s = .next { (readWord s.pc s).2 with pc := (readWord s.pc s).1, cycles := s.cycles + 3 } := by
  simp [exec, execJmpAbs, jumpAbs16, State.setPc, State.charge, Config.costs]

theorem exec_jsr (s : State) :
    exec .jsr s = .next { (readWord s.pc (pushWord (s.pc + 1) s)).2 with
      pc := (readWord s.pc (pushWord (s.pc + 1) s)).1, cycles := s.cycles + 6 } := by
  simp [exec, execJsr, jumpAbs16, State.setPc, State.charge, Config.costs]

theorem exec_rts (s : State) :
    exec .rts s = .next { s with
      sp := s.sp + 2
      pc := wordOf (s.mem.read (0x0100 + (s.sp + 2).toNat)) (s.mem.read (0x0100 + (s.sp + 1).toNat)) + 1
      cycles := s.cycles + 6 } := by
  simp only [exec, execRts, popWord_eq, State.setPc, State.charge, Config.costs]

theorem exec_nop (s : State) : exec .nop s = .next (s.charge 2) := rfl

theorem exec_unimpl (op : Byte) (s : State) :
    exec (.unimpl op) s = .next ((s.emit (.diag op (s.pc - 1))).charge 2) := rfl

end Sys2Proof.Machine
end

