-- ==== Sys2Proof/Laws/Frames.lean ====
section
/-! SUPPORT. Putting frames together: effects of several Bus reads in a row (20_memory.md R51, R52), and the memory
that two pushes leave (10_state.md R27). -/

namespace Sys2Proof.Machine

/-- Reads in a row are the reads of both lists. -/
theorem InputsAfterReads.trans {l l' : List Addr} {s t u : State} (h : InputsAfterReads l s t)
    (h' : InputsAfterReads l' t u) : InputsAfterReads (l ++ l') s u := by
  refine ⟨?_, ?_, ?_⟩
  · rw [h'.uartRx, h.uartRx, List.drop_drop, List.count_append]
  · rw [h'.kbd, h.kbd, List.drop_drop, List.count_append]
  · rw [h'.draws, h.draws, List.countP_append, Nat.add_assoc]

/-- Only the FIFOs and the free-value counter matter to it. -/
theorem InputsAfterReads.congr {l : List Addr} {s t s' t' : State} (h : InputsAfterReads l s t)
    (h1 : s'.uartRx = s.uartRx) (h2 : s'.kbd = s.kbd) (h3 : s'.draws = s.draws)
    (g1 : t'.uartRx = t.uartRx) (g2 : t'.kbd = t.kbd) (g3 : t'.draws = t.draws) : InputsAfterReads l s' t' :=
  ⟨by rw [g1, h1, h.uartRx], by rw [g2, h2, h.kbd], by rw [g3, h3, h.draws]⟩

/-- Nothing read, nothing taken. -/
theorem InputsAfterReads.nil {s t : State} (h1 : t.uartRx = s.uartRx) (h2 : t.kbd = s.kbd)
    (h3 : t.draws = s.draws) : InputsAfterReads [] s t := ⟨by simpa, by simpa, by simpa⟩

/-- Memory untouched. -/
theorem SameMemoryExcept.of_eq {s t : State} (h : t.mem = s.mem) : SameMemoryExcept [] s t := fun k _ => by rw [h]

/-- The invariant looks at memory, buffer lengths and the U bit only. -/
theorem Inv.congr {s t : State} (h : Inv s) (h1 : t.mem.wf = true) (h2 : t.video.length = s.video.length)
    (h3 : t.attr.length = s.attr.length) (h4 : t.settings.length = s.settings.length)
    (h5 : getFlag Config.flagBits.u t.p = getFlag Config.flagBits.u s.p) : Inv t :=
  ⟨h1, h2.trans h.videoLength, h3.trans h.attrLength, h4.trans h.settingsLength, h5.trans h.unusedSet⟩

/-- Memory lists nothing at reset, which is canonical. -/
theorem reset_mem_wf : State.reset.mem.wf = true := rfl

/-- R15: a stack slot is inside memory. -/
theorem slot_lt (sp : Byte) : 0x0100 + sp.toNat < Config.memSize := by
  have h := sp.isLt
  simp only [Config.memSize]
  omega

/-- Different stack pointers are different slots. -/
theorem slot_ne {sp sp' : Byte} (h : sp ≠ sp') : 0x0100 + sp.toNat ≠ 0x0100 + sp'.toNat :=
  fun e => h (BitVec.eq_of_toNat_eq (by omega))

theorem sp_ne_sub_one (sp : Byte) : sp ≠ sp - 1 := by decide +revert

theorem sp_ne_sub_two (sp : Byte) : sp ≠ sp - 2 := by decide +revert

theorem sub_one_ne_sub_two (sp : Byte) : sp - 1 ≠ sp - 2 := by decide +revert

/-- What a pushed word leaves in memory. -/
theorem pushWord_mem (w : Addr) (s : State) (hw : s.mem.wf = true) :
    (pushWord w s).mem.wf = true ∧
    (pushWord w s).mem.read (0x0100 + s.sp.toNat) = hiByte w ∧
    (pushWord w s).mem.read (0x0100 + (s.sp - 1).toNat) = loByte w ∧
    ∀ k, k ≠ 0x0100 + s.sp.toNat → k ≠ 0x0100 + (s.sp - 1).toNat → (pushWord w s).mem.read k = s.mem.read k := by
  rw [pushWord_eq]
  have h1 := Memory.wf_write hw (slot_lt s.sp) (hiByte w)
  refine ⟨Memory.wf_write h1 (slot_lt _) _, ?_, Memory.read_write_self h1 (slot_lt _) _, fun k a b => ?_⟩
  · simp only
    rw [Memory.read_write_other h1 (slot_lt _) _ (slot_ne (sp_ne_sub_one _)), Memory.read_write_self hw (slot_lt _)]
  · simp only
    rw [Memory.read_write_other h1 (slot_lt _) _ b, Memory.read_write_other hw (slot_lt _) _ a]

end Sys2Proof.Machine
end

