-- ==== Sys2Proof/Laws/PerInstr.lean ====
section
/-! SUPPORT. One lemma per constructor of `Instr`: the opcode round trip (30_encoding.md R74, R77). -/

namespace Sys2Proof.Laws

/-- The opcode byte of a well-formed instruction is dispatched to it. -/
def OpcodeRoundTrip.Statement (i : Instr) : Prop := i.wellFormed = true → decodeOpcode (encodeOpcode i) = i

theorem OpcodeRoundTrip.brk : OpcodeRoundTrip.Statement .brk := decodeOpcode_encodeOpcode _

theorem OpcodeRoundTrip.ldaImm : OpcodeRoundTrip.Statement .ldaImm := decodeOpcode_encodeOpcode _

theorem OpcodeRoundTrip.ldxImm : OpcodeRoundTrip.Statement .ldxImm := decodeOpcode_encodeOpcode _

theorem OpcodeRoundTrip.ldyImm : OpcodeRoundTrip.Statement .ldyImm := decodeOpcode_encodeOpcode _

theorem OpcodeRoundTrip.staZp : OpcodeRoundTrip.Statement .staZp := decodeOpcode_encodeOpcode _

theorem OpcodeRoundTrip.staAbs : OpcodeRoundTrip.Statement .staAbs := decodeOpcode_encodeOpcode _

theorem OpcodeRoundTrip.jmpAbs : OpcodeRoundTrip.Statement .jmpAbs := decodeOpcode_encodeOpcode _

theorem OpcodeRoundTrip.jsr : OpcodeRoundTrip.Statement .jsr := decodeOpcode_encodeOpcode _

theorem OpcodeRoundTrip.rts : OpcodeRoundTrip.Statement .rts := decodeOpcode_encodeOpcode _

theorem OpcodeRoundTrip.nop : OpcodeRoundTrip.Statement .nop := decodeOpcode_encodeOpcode _

theorem OpcodeRoundTrip.unimpl (op : Byte) : OpcodeRoundTrip.Statement (.unimpl op) := decodeOpcode_encodeOpcode _

end Sys2Proof.Laws
end

