-- ==== Sys2Proof/Tests/Slice0.lean ====
section
/-! SUPPORT. The model's own tests. Expected values are those of 95_test_vectors.md or of the rule cited; none was
taken from the model. The last part has a witness for the hypotheses of every statement of Obligations.lean. -/

namespace Sys2Proof.Tests

open Sys2Proof Sys2Proof.Machine

/-! Helpers. -/

/-- A running machine as reset leaves it, but for `PC` and memory. -/
def at_ (pc : Addr) (mem : Memory) : State := { State.reset with pc := pc, mem := mem }

/-- The state a step answers (the state itself if it answers none, which the tests would show). -/
def after (s : State) : State :=
  match step s with
  | .next t => t
  | .fault _ => s
  | .refused _ => s

/-! Well-formedness refuses each kind of ill-formed term (30_encoding.md R70, R77). -/

theorem test_wf_refuses_documented_byte_as_unimpl : (Instr.unimpl 0xA9).wellFormed = false := by decide

theorem test_wf_refuses_every_documented_byte :
    Config.opcodes.bytes.all (fun op => !(Instr.unimpl op).wellFormed) = true := by decide

theorem test_wf_refuses_missing_operand : (Insn.mk .ldaImm .none).wellFormed = false := by decide

theorem test_wf_refuses_operand_on_implied : (Insn.mk .rts (.imm8 0x00)).wellFormed = false := by decide

theorem test_wf_refuses_wrong_width : (Insn.mk .jmpAbs (.zp8 0x10)).wellFormed = false := by decide

theorem test_wf_refuses_immediate_as_zero_page : (Insn.mk .staZp (.imm8 0x10)).wellFormed = false := by decide

theorem test_wf_accepts : (Insn.mk .staAbs (.abs16 0x2000)).wellFormed = true := by decide

/-! Decoding, each word written bit by bit from R70 to R74: opcode byte, then the operand bytes. -/

theorem test_decode_brk : decode [0b00000000#8] = .ok (⟨.brk, .none⟩, []) := rfl

theorem test_decode_lda : decode [0b10101001#8, 0b01010110#8] = .ok (⟨.ldaImm, .imm8 0x56⟩, []) := rfl

theorem test_decode_ldx : decode [0b10100010#8, 0b00000001#8] = .ok (⟨.ldxImm, .imm8 0x01⟩, []) := rfl

theorem test_decode_ldy : decode [0b10100000#8, 0b10000000#8] = .ok (⟨.ldyImm, .imm8 0x80⟩, []) := rfl

theorem test_decode_sta_zp : decode [0b10000101#8, 0b00010000#8] = .ok (⟨.staZp, .zp8 0x10⟩, []) := rfl

/-- Low byte first (R73): 0x7F then 0x27 is 0x277F. -/
theorem test_decode_sta_abs :
    decode [0b10001101#8, 0b01111111#8, 0b00100111#8] = .ok (⟨.staAbs, .abs16 0x277F⟩, []) := rfl

theorem test_decode_jmp :
    decode [0b01001100#8, 0b00000010#8, 0b10010000#8] = .ok (⟨.jmpAbs, .abs16 0x9002⟩, []) := rfl

theorem test_decode_jsr :
    decode [0b00100000#8, 0b00010000#8, 0b10000000#8] = .ok (⟨.jsr, .abs16 0x8010⟩, []) := rfl

theorem test_decode_rts : decode [0b01100000#8, 0x00] = .ok (⟨.rts, .none⟩, [0x00]) := rfl

theorem test_decode_nop : decode [0b11101010#8] = .ok (⟨.nop, .none⟩, []) := rfl

/-- V-NOP: 0xAD, a three-byte load on a 6502, is a one-byte fallback here. -/
theorem test_decode_unimpl :
    decode [0b10101101#8, 0x00, 0x20] = .ok (⟨.unimpl 0xAD, .none⟩, [0x00, 0x20]) := rfl

theorem test_decode_refuses_nothing_to_decode : decode [] = .error .noOpcode := rfl

theorem test_decode_refuses_cut_operand : decode [0x4C, 0x00] = .error (.operandCut 0x4C) := rfl

/-- R73: the low byte first. -/
theorem test_encode_jsr : encode ⟨.jsr, .abs16 0x8010⟩ = [0x20, 0x10, 0x80] := by decide

/-- A row's word alone: the operand bytes are zeros. -/
theorem test_decodeTableWord_short : decodeTableWord 8 0x8D = some .staAbs := by decide

theorem test_decodeTableWord_masks : decodeTableWord 8 0x5560 = some .rts := by decide

theorem test_decodeTableWord_unimpl : decodeTableWord 8 0xFF = some (.unimpl 0xFF) := by decide

/-! Flags (V-ZN) and the stack (V-STK). -/

theorem test_updateZN : updateZN 0x80 0x69 = 0xE9 ∧ updateZN 0x00 0xFD = 0x7F ∧ updateZN 0x01 0x22 = 0x20 := by decide

theorem test_push_wraps :
    (push 0xAB { at_ 0x8000 [] with sp := 0x00 }).sp = 0xFF ∧
    (push 0xAB { at_ 0x8000 [] with sp := 0x00 }).mem = [(0x0100, 0xAB)] := by decide

theorem test_pop_wraps :
    (pop { at_ 0x8000 [(0x0100, 0x77)] with sp := 0xFF }).1 = 0x77 ∧
    (pop { at_ 0x8000 [(0x0100, 0x77)] with sp := 0xFF }).2.sp = 0x00 := by decide

theorem test_pushWord_wraps :
    (pushWord 0x1234 { at_ 0x8000 [] with sp := 0x00 }).mem = [(0x0100, 0x12), (0x01FF, 0x34)] := by decide

theorem test_popWord_wraps :
    (popWord { at_ 0x8000 [(0x0100, 0x12), (0x01FF, 0x34)] with sp := 0xFE }).1 = 0x1234 := by decide

/-! The Bus (V-BUS). -/

theorem test_bus_masks : (busWriteAt 0x15000 0x1FF (at_ 0x8000 [])).mem = [(0x5000, 0xFF)] := by decide

/-- Scenario S-3. -/
theorem test_flat_round_trip : (busRead 0x5000 (busWrite 0x5000 0x41 (at_ 0x8000 []))).1 = 0x41 := by decide

theorem test_readWord_wraps_at_the_top :
    (readWord 0xFFFF (at_ 0x8000 [(0x0000, 0x12), (0xFFFF, 0x34)])).1 = 0x1234 := by decide

theorem test_readWord_has_no_page_wrap :
    (readWord 0x12FF (at_ 0x8000 [(0x1200, 0x99), (0x12FF, 0xCD), (0x1300, 0xAB)])).1 = 0xABCD := by decide

theorem test_readWord_reads_a_device :
    (readWord 0x2FFF { at_ 0x8000 [(0x2FFF, 0x10)] with uartRx := [0x41] }).1 = 0x4110 ∧
    (readWord 0x2FFF { at_ 0x8000 [(0x2FFF, 0x10)] with uartRx := [0x41] }).2.uartRx = [] := by decide

/-- V-BUS's two overlapping handlers, H1 without `onWrite`. -/
def overlapping : List Registration :=
  registerHandler ⟨0x1080, 0x117F, some .kbdData, some .uartData⟩
    (registerHandler ⟨0x1000, 0x10FF, some .uartData, none⟩ [])

/-- A machine on which the two handlers and flat memory all read differently. -/
def threeWays : State :=
  { at_ 0x8000 [(0x0FFF, 0x03), (0x1090, 0x03), (0x1180, 0x03)] with uartRx := [0x01], kbd := [0x02] }

theorem test_first_registration_wins :
    (busReadVia overlapping 0x1080 threeWays).1 = 0x01 ∧ (busReadVia overlapping 0x10FF threeWays).1 = 0x01 ∧
    (busReadVia overlapping 0x1100 threeWays).1 = 0x02 ∧ (busReadVia overlapping 0x117F threeWays).1 = 0x02 := by
  decide

theorem test_outside_every_registration :
    (busReadVia overlapping 0x0FFF threeWays).1 = 0x03 ∧ (busReadVia overlapping 0x1180 threeWays).1 = 0x03 := by
  decide

theorem test_write_without_callback_is_dropped :
    (busWriteVia overlapping 0x1090 0x55 threeWays).mem = threeWays.mem ∧
    (busWriteVia overlapping 0x1090 0x55 threeWays).uartTxLog = [] := by decide

/-! The devices (V-DEV). -/

theorem test_video_last_cell (s : State) :
    (busWrite 0x277F 0x7E s).video = s.video.set 1919 0x7E ∧ (busRead 0x277F s).1 = s.video.getD 1919 0 ∧
    (busWrite 0x277F 0x7E s).mem = s.mem := ⟨rfl, rfl, rfl⟩

theorem test_attr_last_cell (s : State) : (busWrite 0x2F7F 0x70 s).attr = s.attr.set 1919 0x70 := rfl

/-- D5: a tail's write has no effect. -/
theorem test_tail_write : busWrite 0x2780 0x01 State.reset = State.reset := rfl

/-- D5: a tail's read is a free value, whatever that value is. -/
theorem test_tail_read : (busRead 0x2780 State.reset).1 = Config.freeByte 0 := rfl

theorem test_uart_transmit :
    (busWrite 0x3000 0x49 { State.reset with uartTxLog := [0x48] }).uartTxLog = [0x48, 0x49] ∧
    (busWrite 0x3000 0x49 State.reset).events = [.tx 0x49] := by decide

/-- R144: with no callback registered only the log grows. -/
theorem test_uart_transmit_without_callback :
    (busWrite 0x3000 0x49 { State.reset with txCallback := false }).uartTxLog = [0x49] ∧
    (busWrite 0x3000 0x49 { State.reset with txCallback := false }).events = [] := by decide

theorem test_uart_status :
    (busRead 0x3001 State.reset).1 = 0x01 ∧ (busRead 0x3001 { State.reset with uartRx := [0x41] }).1 = 0x03 := by decide

theorem test_uart_empty_reads_zero : (busRead 0x3000 State.reset).1 = 0x00 := by decide

theorem test_status_writes_are_dropped :
    busWrite 0x3003 0xFF (busWrite 0x3002 0xFF (busWrite 0x3001 0xFF State.reset)) = State.reset := rfl

theorem test_settings_save :
    (busWrite 0x40FF 0x01 State.reset).settings = (List.replicate 256 0x00).set 255 0x01 ∧
    (busWrite 0x40FF 0x01 State.reset).events = [.save ((List.replicate 256 0x00).set 255 0x01)] := ⟨rfl, rfl⟩

theorem test_first_addresses_past_the_windows :
    (busWrite 0x27D0 0x01 (busWrite 0x2FD0 0x02 (busWrite 0x3004 0x03 (busWrite 0x4100 0x04 State.reset)))).mem =
      [(0x27D0, 0x01), (0x2FD0, 0x02), (0x3004, 0x03), (0x4100, 0x04)] := by decide

/-- R53's rows at both ends of each range. -/
theorem test_regions_screen :
    regionOf 0x0000 = .flat ∧ regionOf 0x1FFF = .flat ∧ regionOf 0x2000 = .video 0 ∧ regionOf 0x277F = .video 1919 ∧
    regionOf 0x2780 = .videoTail ∧ regionOf 0x27CF = .videoTail ∧ regionOf 0x27D0 = .flat ∧ regionOf 0x27FF = .flat ∧
    regionOf 0x2800 = .attr 0 ∧ regionOf 0x2F7F = .attr 1919 ∧ regionOf 0x2F80 = .attrTail ∧
    regionOf 0x2FCF = .attrTail ∧ regionOf 0x2FD0 = .flat ∧ regionOf 0x2FFF = .flat := by decide

theorem test_regions_io :
    regionOf 0x3000 = .uartData ∧ regionOf 0x3001 = .uartStatus ∧ regionOf 0x3002 = .kbdData ∧
    regionOf 0x3003 = .kbdStatus ∧ regionOf 0x3004 = .flat ∧ regionOf 0x3FFF = .flat ∧
    regionOf 0x4000 = .settings 0 ∧ regionOf 0x40FF = .settings 255 ∧ regionOf 0x4100 = .flat ∧
    regionOf 0xFFFF = .flat := by decide

/-! One step of each instruction (V-LD, V-ST, V-CT, V-BRK, V-NOP). -/

theorem test_lda_negative :
    (after (at_ 0x8000 [(0x8000, 0xA9), (0x8001, 0x80)])).a = 0x80 ∧
    (after (at_ 0x8000 [(0x8000, 0xA9), (0x8001, 0x80)])).p = 0xA0 ∧
    (after (at_ 0x8000 [(0x8000, 0xA9), (0x8001, 0x80)])).pc = 0x8002 ∧
    (after (at_ 0x8000 [(0x8000, 0xA9), (0x8001, 0x80)])).cycles = 2 := by decide

/-- An operand fetched from the UART data register (R176). -/
theorem test_lda_operand_from_the_uart :
    (after { at_ 0x2FFF [(0x2FFF, 0xA9)] with uartRx := [0x41, 0x42] }).a = 0x41 ∧
    (after { at_ 0x2FFF [(0x2FFF, 0xA9)] with uartRx := [0x41, 0x42] }).uartRx = [0x42] := by decide

theorem test_ldx_keeps_other_flags :
    (after { at_ 0x8000 [(0x8000, 0xA2), (0x8001, 0x80)] with p := 0x69 }).x = 0x80 ∧
    (after { at_ 0x8000 [(0x8000, 0xA2), (0x8001, 0x80)] with p := 0x69 }).p = 0xE9 ∧
    (after { at_ 0x8000 [(0x8000, 0xA2), (0x8001, 0x80)] with p := 0x69 }).a = 0x00 := by decide

theorem test_ldy_zero :
    (after { at_ 0x8000 [(0x8000, 0xA0)] with y := 0x33 }).y = 0x00 ∧
    (after { at_ 0x8000 [(0x8000, 0xA0)] with y := 0x33 }).p = 0x22 ∧
    (after { at_ 0x8000 [(0x8000, 0xA0)] with y := 0x33 }).cycles = 2 := by decide

/-- The operand byte is its own target. -/
theorem test_sta_zp_onto_its_operand :
    (after { at_ 0x00FE [(0x00FE, 0x85), (0x00FF, 0xFF)] with a := 0x12 }).mem = [(0x00FE, 0x85), (0x00FF, 0x12)] ∧
    (after { at_ 0x00FE [(0x00FE, 0x85), (0x00FF, 0xFF)] with a := 0x12 }).pc = 0x0100 ∧
    (after { at_ 0x00FE [(0x00FE, 0x85), (0x00FF, 0xFF)] with a := 0x12 }).cycles = 3 := by decide

/-- Stores write no flag, not even for a zero (V-ST). -/
theorem test_sta_zp_keeps_flags :
    (after { at_ 0x8000 [(0x8000, 0x85), (0x8001, 0x10)] with p := 0xA0 }).p = 0xA0 := by decide

theorem test_sta_abs_to_the_screen :
    (after { at_ 0x8000 [(0x8000, 0x8D), (0x8002, 0x20)] with a := 0x56 }).video =
      (List.replicate 1920 Config.blank).set 0 0x56 ∧
    (after { at_ 0x8000 [(0x8000, 0x8D), (0x8002, 0x20)] with a := 0x56 }).mem = [(0x8000, 0x8D), (0x8002, 0x20)] ∧
    (after { at_ 0x8000 [(0x8000, 0x8D), (0x8002, 0x20)] with a := 0x56 }).cycles = 4 := ⟨rfl, rfl, rfl⟩

/-- The operand wraps past 0xFFFF: target 0x1234. -/
theorem test_sta_abs_operand_wraps :
    (after { at_ 0xFFFF [(0x0000, 0x34), (0x0001, 0x12), (0xFFFF, 0x8D)] with a := 0x41 }).mem =
      [(0x0000, 0x34), (0x0001, 0x12), (0x1234, 0x41), (0xFFFF, 0x8D)] ∧
    (after { at_ 0xFFFF [(0x0000, 0x34), (0x0001, 0x12), (0xFFFF, 0x8D)] with a := 0x41 }).pc = 0x0002 := by decide

theorem test_jmp_across_a_page :
    (after (at_ 0x12FE [(0x12FE, 0x4C), (0x12FF, 0xCD), (0x1300, 0xAB)])).pc = 0xABCD ∧
    (after (at_ 0x12FE [(0x12FE, 0x4C), (0x12FF, 0xCD), (0x1300, 0xAB)])).cycles = 3 := by decide

theorem test_jsr_with_wrapping_stack :
    (after { at_ 0x8000 [(0x8000, 0x20), (0x8001, 0x10), (0x8002, 0x80)] with sp := 0x00 }).mem =
      [(0x0100, 0x80), (0x01FF, 0x02), (0x8000, 0x20), (0x8001, 0x10), (0x8002, 0x80)] ∧
    (after { at_ 0x8000 [(0x8000, 0x20), (0x8001, 0x10), (0x8002, 0x80)] with sp := 0x00 }).sp = 0xFE ∧
    (after { at_ 0x8000 [(0x8000, 0x20), (0x8001, 0x10), (0x8002, 0x80)] with sp := 0x00 }).pc = 0x8010 ∧
    (after { at_ 0x8000 [(0x8000, 0x20), (0x8001, 0x10), (0x8002, 0x80)] with sp := 0x00 }).cycles = 6 := by decide

/-- The pushes overwrite the operand (R178). -/
theorem test_jsr_overwrites_its_operand :
    (after (at_ 0x01FD [(0x01FD, 0x20), (0x01FE, 0x55), (0x01FF, 0x66)])).pc = 0x01FF ∧
    (after (at_ 0x01FD [(0x01FD, 0x20), (0x01FE, 0x55), (0x01FF, 0x66)])).mem =
      [(0x01FD, 0x20), (0x01FE, 0xFF), (0x01FF, 0x01)] := by decide

theorem test_rts_wraps :
    (after { at_ 0x8010 [(0x0100, 0xFF), (0x01FF, 0xFF), (0x8010, 0x60)] with sp := 0xFE }).pc = 0x0000 ∧
    (after { at_ 0x8010 [(0x0100, 0xFF), (0x01FF, 0xFF), (0x8010, 0x60)] with sp := 0xFE }).sp = 0x00 ∧
    (after { at_ 0x8010 [(0x0100, 0xFF), (0x01FF, 0xFF), (0x8010, 0x60)] with sp := 0xFE }).cycles = 6 := by decide

theorem test_brk_frame :
    (after { at_ 0x8002 [(0xFFFF, 0x90)] with p := 0xA4 }).mem =
      [(0x01FD, 0xB4), (0x01FE, 0x04), (0x01FF, 0x80), (0xFFFF, 0x90)] ∧
    (after { at_ 0x8002 [(0xFFFF, 0x90)] with p := 0xA4 }).sp = 0xFC ∧
    (after { at_ 0x8002 [(0xFFFF, 0x90)] with p := 0xA4 }).p = 0xA4 ∧
    (after { at_ 0x8002 [(0xFFFF, 0x90)] with p := 0xA4 }).pc = 0x9000 ∧
    (after { at_ 0x8002 [(0xFFFF, 0x90)] with p := 0xA4 }).cycles = 7 := by decide

/-- `BRK` at 0xFFFF pushes the wrapped 0x0001 (D18) and sets I. -/
theorem test_brk_at_the_top :
    (after (at_ 0xFFFF [])).mem = [(0x01FD, 0x30), (0x01FE, 0x01)] ∧ (after (at_ 0xFFFF [])).p = 0x24 := by decide

theorem test_nop_at_the_top :
    (after (at_ 0xFFFF [(0xFFFF, 0xEA)])).pc = 0x0000 ∧ (after (at_ 0xFFFF [(0xFFFF, 0xEA)])).cycles = 2 ∧
    (after (at_ 0xFFFF [(0xFFFF, 0xEA)])).events = [] := by decide

theorem test_unimpl :
    (after { at_ 0x8000 [(0x8000, 0x40)] with sp := 0xFC }).pc = 0x8001 ∧
    (after { at_ 0x8000 [(0x8000, 0x40)] with sp := 0xFC }).sp = 0xFC ∧
    (after { at_ 0x8000 [(0x8000, 0x40)] with sp := 0xFC }).cycles = 2 ∧
    (after { at_ 0x8000 [(0x8000, 0x40)] with sp := 0xFC }).events = [.diag 0x40 0x8000] := by decide

/-! The host's word placed at reset, and the controller (S-RESET, S-4, V-RUN). -/

theorem test_withFetchWord_runs_it :
    step (State.reset.withFetchWord 24 0x80108D) = exec .staAbs ((State.reset.withFetchWord 24 0x80108D).setPc 0x0001) :=
  rfl

theorem test_withFetchWord_operand :
    (after (State.reset.withFetchWord 16 0x7FA9)).a = 0x7F := by decide

/-- R4, R75: another record of opcode bytes is another machine, on which 0x01 is `RTS` and 0x60 is the fallback. -/
theorem test_step_with_other_opcodes :
    stepWith { Config.opcodes with rts := 0x01 } (at_ 0x8000 [(0x8000, 0x01)]) =
      exec .rts (at_ 0x8001 [(0x8000, 0x01)]) ∧
    stepWith { Config.opcodes with rts := 0x01 } (at_ 0x8000 [(0x8000, 0x60)]) =
      exec (.unimpl 0x60) (at_ 0x8001 [(0x8000, 0x60)]) := ⟨rfl, rfl⟩

/-- S-RESET. -/
theorem test_cpuReset :
    (cpuReset { at_ 0x1234 [(0xFFFD, 0x80)] with a := 0x12, sp := 0x7A, p := 0xE5, cycles := 999 }).pc = 0x8000 ∧
    (cpuReset { at_ 0x1234 [(0xFFFD, 0x80)] with a := 0x12, sp := 0x7A, p := 0xE5, cycles := 999 }).a = 0x00 ∧
    (cpuReset { at_ 0x1234 [(0xFFFD, 0x80)] with a := 0x12, sp := 0x7A, p := 0xE5, cycles := 999 }).sp = 0xFF ∧
    (cpuReset { at_ 0x1234 [(0xFFFD, 0x80)] with a := 0x12, sp := 0x7A, p := 0xE5, cycles := 999 }).p = 0x20 := by decide

/-- S-4. -/
theorem test_powerOn_without_rom :
    powerOn (Vector.replicate 256 0x00) (construct [] true) = (false, construct [] true) ∧
    (construct [] true).video = List.replicate 1920 0x00 := ⟨rfl, rfl⟩

/-- V-RUN: `tick(1)` on a `NOP` costs 2, and `tick(0)` runs nothing. -/
theorem test_tick :
    (match tick Config.opcodes 1 [] (at_ 0x8000 [(0x8000, 0xEA)]) with
      | .next t => decide (t.cycles = 2 ∧ t.pc = 0x8001)
      | .fault _ => false
      | .refused _ => false) = true ∧
    tick Config.opcodes 0 [] (at_ 0x8000 [(0x8000, 0xEA)]) = .next (at_ 0x8000 [(0x8000, 0xEA)]) := ⟨by decide, rfl⟩

/-- D13. -/
theorem test_loadROM_past_the_end :
    loadROMAt 0xFFFE [0xAA, 0xBB, 0xCC] State.reset = .refused .romPastEnd := rfl

theorem test_loadROM_under_a_window :
    (match loadROMAt 0x2000 [0x11, 0x22] State.reset with
      | .next t => decide (t.mem = [(0x2000, 0x11), (0x2001, 0x22)])
      | .fault _ => false
      | .refused _ => false) = true := by decide

/-! Witnesses: for each statement of Obligations.lean with hypotheses, a concrete input that meets them together. -/

/-- A small program in memory: `JSR 0x8010` at 0x8000. -/
def callMem : Memory := [(0x8000, 0x20), (0x8001, 0x10), (0x8002, 0x80)]

theorem witness_DecodeInvertsEncode :
    Config.opcodes.Distinct ∧ (Insn.mk .jsr (.abs16 0xFFFF)).wellFormedFor Config.opcodes = true ∧
    (Insn.mk (.unimpl 0xFF) .none).wellFormedFor Config.opcodes = true := by decide

theorem witness_EncodeInvertsDecode :
    decodeWith Config.opcodes [0x4C, 0xFF, 0xFF, 0x01] = .ok (⟨.jmpAbs, .abs16 0xFFFF⟩, [0x01]) := rfl

theorem witness_StepRunsTheDecodedInstruction :
    (at_ 0x8000 callMem).power = .on ∧ regionOf (at_ 0x8000 callMem).pc = .flat ∧
    decode [callMem.read 0x8000, callMem.read 0x8001, callMem.read 0x8002] = .ok (⟨.jsr, .abs16 0x8010⟩, []) ∧
    (powerOff (at_ 0x8000 callMem)).power = .off := ⟨rfl, by decide, rfl, rfl⟩

/-- At the last place where the three bytes are flat memory before the video window. -/
theorem witness_OperandFetchReadsTheDecodedOperand :
    regionOf ((at_ 0x1FFD [(0x1FFD, 0x8D)]).pc + 1) = .flat ∧ regionOf ((at_ 0x1FFD [(0x1FFD, 0x8D)]).pc + 2) = .flat ∧
    decode [Memory.read [(0x1FFD, 0x8D)] 0x1FFD, Memory.read [(0x1FFD, 0x8D)] 0x1FFE,
      Memory.read [(0x1FFD, 0x8D)] 0x1FFF] = .ok (⟨.staAbs, .abs16 0x0000⟩, []) := ⟨by decide, by decide, rfl⟩

/-- The other operand forms, across the wrap at 0xFFFF. -/
theorem witness_OperandFetchReadsTheDecodedOperand_forms :
    regionOf ((at_ 0xFFFF []).pc + 1) = .flat ∧ regionOf ((at_ 0xFFFF []).pc + 2) = .flat ∧
    decode [Memory.read [(0xFFFF, 0xA2)] 0xFFFF, 0x00, 0x00] = .ok (⟨.ldxImm, .imm8 0x00⟩, [0x00]) ∧
    decode [Memory.read [(0xFFFF, 0x85)] 0xFFFF, 0x00, 0x00] = .ok (⟨.staZp, .zp8 0x00⟩, [0x00]) ∧
    decode [Memory.read [(0xFFFF, 0x60)] 0xFFFF, 0x00, 0x00] = .ok (⟨.rts, .none⟩, [0x00, 0x00]) :=
  ⟨by decide, by decide, rfl, rfl, rfl⟩

theorem witness_BusWriteFollowsTheAddressMap : (at_ 0x8000 callMem).mem.wf = true := by decide

theorem witness_FlatMemoryRoundTrips :
    (at_ 0x8000 callMem).mem.wf = true ∧ regionOf 0x1FFF = .flat ∧ (0xFFFF : Addr) ≠ 0x1FFF ∧ regionOf 0xFFFF = .flat := by
  decide

theorem witness_WindowsNeverReachFlatMemory :
    regionOf 0x2000 ≠ .flat ∧ regionOf 0x27CF ≠ .flat ∧ regionOf 0x3003 ≠ .flat ∧ regionOf 0x40FF ≠ .flat := by decide

/-- The state after reset meets the invariant. -/
theorem inv_reset : Inv State.reset :=
  ⟨rfl, List.length_replicate, List.length_replicate, List.length_replicate, rfl⟩

theorem witness_BackedCellsRoundTrip :
    Inv State.reset ∧ (∃ i, regionOf 0x277F = .video i) ∧ (∃ i, regionOf 0x2800 = .attr i) ∧
    (∃ i, regionOf 0x40FF = .settings i) ∧ (0x2000 : Addr) ≠ 0x277F ∧ isTail 0x2000 = false :=
  ⟨inv_reset, ⟨1919, by decide⟩, ⟨0, by decide⟩, ⟨255, by decide⟩, by decide, by decide⟩

/-- V-BUS's handlers: 0x1100 is past H1 and inside H2; 0x1180 is past both. -/
theorem witness_FirstRegistrationWins :
    overlapping = [⟨0x1000, 0x10FF, some .uartData, none⟩] ++ ⟨0x1080, 0x117F, some .kbdData, some .uartData⟩ :: [] ∧
    (∀ g ∈ [(⟨0x1000, 0x10FF, some .uartData, none⟩ : Registration)], g.contains 0x1100 = false) ∧
    (⟨0x1080, 0x117F, some .kbdData, some .uartData⟩ : Registration).contains 0x1100 = true ∧
    (∀ g ∈ overlapping, g.contains 0x1180 = false) := by decide

theorem witness_EqualMemoriesAreEqualData :
    Memory.wf (Memory.write [] 0x0010 0x41) = true ∧ Memory.wf [(0x0010, 0x41)] = true ∧
    ∀ k, Memory.read (Memory.write [] 0x0010 0x41) k = Memory.read [(0x0010, 0x41)] k :=
  ⟨by decide, by decide, fun _ => rfl⟩

theorem witness_UpdateZNWritesZeroAndNegative :
    (0 : Nat) ≠ Config.flagBits.z ∧ (0 : Nat) ≠ Config.flagBits.n := by decide

theorem witness_PushThenPopRoundTrips : { at_ 0x8000 callMem with sp := 0x00 }.mem.wf = true := by decide

theorem witness_PushAndPopMoveOneByte : { at_ 0x8000 callMem with sp := 0xFF }.mem.wf = true := by decide

theorem witness_PushWordPutsHighByteFirst : { at_ 0x8000 callMem with sp := 0x01 }.mem.wf = true := by decide

theorem witness_StoreZeroPageWritesA : (at_ 0x8001 [(0x8000, 0x85), (0x8001, 0xFF)]).mem.wf = true := by decide

/-- The operand of `STA abs` in each row of R53 in turn, at a boundary (R152's rows). -/
theorem witness_StoreAbsoluteWritesA :
    (at_ 0x8001 [(0x8001, 0x80), (0x8002, 0x27)]).mem.wf = true ∧
    (fetchAbs16 (at_ 0x8001 [(0x8001, 0x80), (0x8002, 0x27)])).1 = 0x2780 ∧
    (fetchAbs16 (at_ 0x8001 [(0x8001, 0x7F), (0x8002, 0x27)])).1 = 0x277F ∧
    (fetchAbs16 (at_ 0x8001 [(0x8002, 0x28)])).1 = 0x2800 ∧
    (fetchAbs16 (at_ 0x8001 [(0x8001, 0x80), (0x8002, 0x2F)])).1 = 0x2F80 ∧
    (fetchAbs16 (at_ 0x8001 [(0x8002, 0x30)])).1 = 0x3000 ∧
    (fetchAbs16 (at_ 0x8001 [(0x8001, 0x01), (0x8002, 0x30)])).1 = 0x3001 ∧
    (fetchAbs16 (at_ 0x8001 [(0x8001, 0x02), (0x8002, 0x30)])).1 = 0x3002 ∧
    (fetchAbs16 (at_ 0x8001 [(0x8001, 0x03), (0x8002, 0x30)])).1 = 0x3003 ∧
    (fetchAbs16 (at_ 0x8001 [(0x8001, 0xFF), (0x8002, 0x40)])).1 = 0x40FF ∧
    (fetchAbs16 (at_ 0x8001 [(0x8002, 0x41)])).1 = 0x4100 := by decide

theorem witness_JumpSubroutinePushesThenJumps : (at_ 0x8001 callMem).mem.wf = true := by decide

/-- V-CT's `20 xx yy` at 0x01FD, then a `JSR` far from its stack. -/
theorem witness_JumpSubroutineReadsItsOperandLast :
    ((at_ 0x01FE [(0x01FD, 0x20)]).mem.wf = true ∧
      (at_ 0x01FE [(0x01FD, 0x20)]).pc = stackAddr ((at_ 0x01FE [(0x01FD, 0x20)]).sp - 1) ∧
      (at_ 0x01FE [(0x01FD, 0x20)]).pc + 1 = stackAddr (at_ 0x01FE [(0x01FD, 0x20)]).sp) ∧
    (regionOf (0x01FC : Addr) = .flat ∧ regionOf (0x01FD : Addr) = .flat ∧
      (0x01FC : Addr) ≠ stackAddr State.reset.sp ∧ (0x01FC : Addr) ≠ stackAddr (State.reset.sp - 1) ∧
      (0x01FD : Addr) ≠ stackAddr State.reset.sp ∧ (0x01FD : Addr) ≠ stackAddr (State.reset.sp - 1)) := by decide

theorem witness_ReturnUndoesJumpSubroutine :
    (at_ 0x8001 callMem).mem.wf = true ∧
    ∃ t, exec .jsr (at_ 0x8001 callMem) = .next t ∧ t.sp = t.sp ∧
      t.mem.read (stackAddr (at_ 0x8001 callMem).sp).toNat = t.mem.read (stackAddr (at_ 0x8001 callMem).sp).toNat :=
  ⟨by decide, _, rfl, rfl, rfl⟩

theorem witness_BreakEntersThroughTheVector : { at_ 0x8003 [(0xFFFF, 0x90)] with sp := 0x01 }.mem.wf = true := by decide

theorem witness_FallbackReportsAndCharges :
    (0x01 : Byte) ∉ Config.opcodes.bytes ∧ (0xFF : Byte) ∉ Config.opcodes.bytes := by decide

theorem witness_StepKeepsTheInvariant : Inv State.reset ∧ ∃ t, step State.reset = .next t :=
  ⟨inv_reset, _, rfl⟩

/-- Both outcomes: a run that completes, and an image of 32769 bytes. -/
theorem witness_HostCallsKeepTheInvariant :
    Inv State.reset ∧ (∃ t, hostCalls Config.opcodes [.powerOff, .arrival (.key 0x41)] State.reset = .next t) ∧
    hostCalls Config.opcodes [.loadROM (List.replicate 32769 0x00)] State.reset = .refused .romPastEnd :=
  ⟨inv_reset, ⟨_, rfl⟩, by
    have h : ¬ Config.romOffset + (List.replicate 32769 (0x00 : Byte)).length ≤ Config.memSize := by
      rw [List.length_replicate]
      decide
    rw [hostCalls, hostCall, loadROM, loadROMAt, busLoadROM, if_neg h]⟩

theorem witness_BootReachesARunningMachine :
    Memory.wf callMem = true ∧ 0x8000 + (List.replicate 32768 (0x00 : Byte)).length ≤ 65536 :=
  ⟨by decide, by rw [List.length_replicate]⟩

theorem witness_OnlyItsLoadWritesARegister :
    ∃ t, exec .nop State.reset = .next t ∧ Instr.nop ≠ .ldaImm ∧ Instr.nop ≠ .ldxImm ∧ Instr.nop ≠ .ldyImm :=
  ⟨_, rfl, by decide, by decide, by decide⟩

theorem witness_FlagsChangeOnlyAsTabled :
    ∃ t, exec .brk State.reset = .next t ∧ (0 : Nat) ≠ Config.flagBits.z ∧ (0 : Nat) ≠ Config.flagBits.n ∧
      (0 : Nat) ≠ Config.flagBits.i := ⟨_, rfl, by decide, by decide, by decide⟩

theorem witness_StackPointerMovesOnlyAsStated : ∃ t, exec .rts { State.reset with sp := 0xFE } = .next t := ⟨_, rfl⟩

theorem witness_EveryInstructionAddsItsFixedCost : ∃ t, exec .staAbs (at_ 0x8001 callMem) = .next t := ⟨_, rfl⟩

/-- A step that does transmit: `STA 0x3000`. -/
theorem witness_TransmitLogOnlyGrows :
    ∃ t, step (at_ 0x8000 [(0x8000, 0x8D), (0x8002, 0x30)]) = .next t ∧ t.uartTxLog = [0x00] := ⟨_, rfl, by decide⟩

theorem witness_DiagnosticsComeFromTheFallbackOnly :
    NoDiag State.reset ∧ (∃ t, exec .nop State.reset = .next t ∧ NoDiag t) ∧
    ∃ t, exec (.unimpl 0xAD) State.reset = .next t ∧ ¬ NoDiag t := by
  refine ⟨rfl, ⟨_, rfl, rfl⟩, _, rfl, ?_⟩
  simp [NoDiag, State.emit, State.charge, Event.isDiag]

theorem witness_StepsNeverTouchControlState : ∃ t, step (at_ 0x8000 callMem) = .next t := ⟨_, rfl⟩

theorem witness_IndexRegistersAreNeverRead :
    ∃ t, step { at_ 0x8000 callMem with x := 0x12, y := 0x34 } = .next t := ⟨_, rfl⟩

/-- Two memories that differ under the video window only. -/
theorem witness_BytesUnderWindowsAreInvisible :
    (at_ 0x8000 []).mem.wf = true ∧ Memory.wf [(0x2000, 0x55)] = true ∧
    (∀ a : Addr, regionOf a = .flat → Memory.read [(0x2000, 0x55)] a.toNat = (at_ 0x8000 []).mem.read a.toNat) ∧
    ∃ t, step (at_ 0x8000 []) = .next t := by
  refine ⟨rfl, by decide, fun a h => ?_, _, rfl⟩
  have hne : a.toNat ≠ 0x2000 := by
    intro e
    rw [show a = 0x2000 from BitVec.eq_of_toNat_eq e] at h
    exact absurd h (by decide)
  simp [at_, State.reset, Memory.read, Ne.symm hne, Memory.unlisted]

theorem witness_PowerOnNeedsARom : (construct [] true).romLoaded = false ∧ State.reset.romLoaded = true := ⟨rfl, rfl⟩

theorem witness_ControllerResetKeepsMemoryAndSettings : (construct [] true).power = .off ∧ State.reset.power = .on :=
  ⟨rfl, rfl⟩

/-- An image that ends at the last byte, and one that ends past it (V-BUS). -/
theorem witness_LoadRomWritesUnderTheWindows :
    State.reset.mem.wf = true ∧ 0xFFFE + [(0xAA : Byte), 0xBB].length ≤ 65536 ∧
    65536 < 0xFFFE + [(0xAA : Byte), 0xBB, 0xCC].length := by decide

theorem witness_TickOvershootsByAtMostSix : (construct [] true).power = .off ∧ State.reset.power = .on := ⟨rfl, rfl⟩

/-- R146, R149: new bytes go behind what the FIFO holds. -/
theorem test_inputs_append :
    (receiveFromHost [0x42, 0x43] { State.reset with uartRx := [0x41] }).uartRx = [0x41, 0x42, 0x43] ∧
    (enqueueKey 0x0D { State.reset with kbd := [0x6B] }).kbd = [0x6B, 0x0D] := by decide

theorem witness_FifosDeliverInOrder : State.reset.uartRx = [] ∧ State.reset.kbd = [] := ⟨rfl, rfl⟩

theorem witness_FifosSurviveEveryReset :
    (powerOff State.reset = cpuReset State.reset ∨ powerOff State.reset = (powerOn (Vector.replicate 256 0x00) State.reset).2 ∨
      powerOff State.reset = powerOff State.reset ∨ powerOff State.reset = controllerReset State.reset) :=
  .inr (.inr (.inl rfl))

/-- A budget of 1, and of 8, on a running machine. -/
theorem witness_TickRunsStepsTowardsItsGoal : (at_ 0x8000 callMem).power = .on ∧ 1 ≤ 1 ∧ 1 ≤ 8 := by decide

end Sys2Proof.Tests
end

section
/-! PROOFS. A step is a sequence of five kinds of action; what every action keeps, every step keeps
(10_state.md R16, R20, R22, R23, R30, 60_exceptions.md R144). -/

namespace Sys2Proof.Machine

open Relation (ReflTransGen)

/-- R76: a step in On runs the selected instruction on the state after the opcode fetch; one in Off keeps the state. -/
theorem stepWith_cases {m : OpcodeMap} {s t : State} (h : stepWith m s = .next t) :
    (s.power = .off ∧ t = s) ∨
      (s.power = .on ∧ exec (decodeOpcodeWith m (fetchOpcode s).1) (fetchOpcode s).2 = .next t) := by
  cases hp : s.power with
  | off => simp only [stepWith, hp, Host.Outcome.next.injEq] at h; exact .inl ⟨rfl, h.symm⟩
  | on => simp only [stepWith, hp] at h; exact .inr ⟨rfl, h⟩

/-- What instructions are made of: Bus accesses, changes of CPU registers that keep the unused flag (R16), and the
diagnostic (R111). -/
inductive Action : State → State → Prop
  | read (addr : Addr) (s : State) : Action s (busRead addr s).2
  | write (addr : Addr) (v : Byte) (s : State) : Action s (busWrite addr v s)
  | registers (s : State) (a x y : Byte) (pc : Addr) (sp : Byte) (cycles : Nat) :
      Action s { s with a := a, x := x, y := y, pc := pc, sp := sp, cycles := cycles }
  | status (s : State) (p : Byte) (hu : getFlag Config.flagBits.u p = getFlag Config.flagBits.u s.p) :
      Action s (s.setP p)
  | diag (op : Byte) (addr : Addr) (s : State) : Action s (s.emit (.diag op addr))

/-- Actions one after another. -/
abbrev Actions : State → State → Prop := ReflTransGen Action

/-- What each action does, reflexively and transitively, any sequence of them does. -/
theorem Actions.induct {R : State → State → Prop} (refl : ∀ s, R s s)
    (trans : ∀ {s t u}, R s t → R t u → R s u) (step : ∀ {s t}, Action s t → R s t) {s t : State}
    (h : Actions s t) : R s t := by
  induction h with
  | refl => exact refl s
  | tail _ hlast ih => exact trans ih (step hlast)

/-! The operations that instructions share. -/

theorem getFlag_unused_updateZN (v p : Byte) :
    getFlag Config.flagBits.u (updateZN v p) = getFlag Config.flagBits.u p := by
  rw [getFlag_updateZN, if_neg (by decide), if_neg (by decide)]

theorem actions_setPc (s : State) (v : Addr) : Actions s (s.setPc v) := .single (.registers s _ _ _ v _ _)

theorem actions_charge (s : State) (n : Nat) : Actions s (s.charge n) := .single (.registers s _ _ _ _ _ (s.cycles + n))

theorem actions_fetchByte (s : State) : Actions s ((busRead s.pc s).2.setPc ((busRead s.pc s).2.pc + 1)) :=
  .trans (.single (.read s.pc s)) (actions_setPc _ _)

theorem actions_readWord (addr : Addr) (s : State) : Actions s (readWord addr s).2 :=
  .tail (.single (.read addr s)) (.read (addr + 1) _)

theorem actions_jumpAbs16 (s : State) : Actions s (jumpAbs16 s) := .trans (actions_readWord s.pc s) (actions_setPc _ _)

theorem actions_push (b : Byte) (s : State) : Actions s (push b s) :=
  .tail (.single (.write (stackAddr s.sp) b s)) (.registers _ _ _ _ _ _ _)

theorem actions_pushWord (w : Addr) (s : State) : Actions s (pushWord w s) :=
  .trans (actions_push (hiByte w) s) (actions_push (loByte w) _)

theorem actions_popWord (s : State) : Actions s (popWord s).2 := by
  rw [popWord_eq]
  exact .single (.registers s _ _ _ _ (s.sp + 2) _)

theorem actions_takeBreak (s : State) : Actions s (takeBreak s) :=
  have pushes := (actions_pushWord (s.pc + 1) s).trans (actions_push (breakCopy (pushWord (s.pc + 1) s).p) _)
  have interrupts := pushes.tail (.status _ (setFlag Config.flagBits.i true _) (by
    rw [getFlag_setFlag _ _ _ _ (by decide), if_neg (by decide)]))
  (interrupts.trans (actions_readWord Config.brkVector _)).trans (actions_setPc _ _)

/-- R95 to R97: fetch, write a register (here any change of A, X and Y), then the flags and the cost. -/
theorem actions_load (s : State) (a x y : Byte) :
    let f := fetchImm8 s
    Actions s (({ f.2 with a := a, x := x, y := y }.setP (updateZN f.1 f.2.p)).charge 2) :=
  have loaded := (actions_fetchByte s).tail (.registers _ a x y _ _ _)
  (loaded.tail (.status _ (updateZN _ _) (getFlag_unused_updateZN _ _))).trans (actions_charge _ 2)

/-- Every instruction is a sequence of actions. -/
theorem exec_actions {i : Instr} {s t : State} (h : exec i s = .next t) : Actions s t := by
  cases i <;> cases h
  case brk => exact (actions_takeBreak s).trans (actions_charge _ _)
  case ldaImm => exact actions_load s _ _ _
  case ldxImm => exact actions_load s _ _ _
  case ldyImm => exact actions_load s _ _ _
  case staZp => exact ((actions_fetchByte s).tail (.write _ _ _)).trans (actions_charge _ _)
  case staAbs =>
    have fetched := (actions_readWord s.pc s).trans (actions_setPc _ ((readWord s.pc s).2.pc + 2))
    exact (fetched.tail (.write _ _ _)).trans (actions_charge _ _)
  case jmpAbs => exact (actions_jumpAbs16 s).trans (actions_charge _ _)
  case jsr => exact ((actions_pushWord _ s).trans (actions_jumpAbs16 _)).trans (actions_charge _ _)
  case rts => exact ((actions_popWord s).trans (actions_setPc _ _)).trans (actions_charge _ _)
  case nop => exact actions_charge s _
  case unimpl op => exact (ReflTransGen.single (.diag op _ s)).trans (actions_charge _ _)

/-- Every step is a sequence of actions. -/
theorem stepWith_actions {m : OpcodeMap} {s t : State} (h : stepWith m s = .next t) : Actions s t := by
  obtain ⟨-, rfl⟩ | ⟨-, h⟩ := stepWith_cases h
  · exact .refl
  · exact (actions_fetchByte s).trans (exec_actions h)

/-! What a Bus write can reach. -/

/-- R53: an address that no registration contains is an address of flat memory, and the other way round. -/
theorem findHandler_eq_none_iff (a : Addr) : findHandler deviceMap a = none ↔ regionOf a = .flat := by
  rw [findHandler_region]
  cases regionOf a <;> simp [handlerOf, deviceMap]

/-- R44, R47, R53: a write goes to flat memory or to one device, or it is dropped. -/
theorem busWrite_cases (addr : Addr) (v : Byte) (s : State) :
    (regionOf addr = .flat ∧ busWrite addr v s = { s with mem := s.mem.write addr.toNat v }) ∨
    (regionOf addr ≠ .flat ∧ ((∃ port, busWrite addr v s = deviceWrite port addr v s) ∨ busWrite addr v s = s)) := by
  cases hf : findHandler deviceMap addr with
  | none => exact .inl ⟨(findHandler_eq_none_iff addr).1 hf, busWrite_flat hf v s⟩
  | some h =>
    have hwindow : regionOf addr ≠ .flat := by rw [ne_eq, ← findHandler_eq_none_iff, hf]; exact Option.some_ne_none h
    cases hport : h.onWrite with
    | none => exact .inr ⟨hwindow, .inr (by simp [busWrite, busWriteVia, hf, hport])⟩
    | some port => exact .inr ⟨hwindow, .inl ⟨port, by simp [busWrite, busWriteVia, hf, hport]⟩⟩

theorem deviceWrite_mem (port : WritePort) (addr : Addr) (v : Byte) (s : State) :
    (deviceWrite port addr v s).mem = s.mem := by cases port <;> rfl

/-- R53: a write in a window leaves flat memory alone. -/
theorem busWrite_mem_window {addr : Addr} (h : regionOf addr ≠ .flat) (v : Byte) (s : State) :
    (busWrite addr v s).mem = s.mem := by
  obtain ⟨hflat, -⟩ | ⟨-, ⟨port, hw⟩ | hw⟩ := busWrite_cases addr v s
  · exact absurd hflat h
  · rw [hw, deviceWrite_mem]
  · rw [hw]

@[simp] theorem cellWrite_length (buffer : List Byte) (i : Nat) (v : Byte) :
    (cellWrite buffer i v).length = buffer.length := by
  unfold cellWrite
  split
  · exact List.length_set
  · rfl

/-- R22: a write changes cells of the device buffers, never how many there are. -/
theorem deviceWrite_lengths (port : WritePort) (addr : Addr) (v : Byte) (s : State) :
    (deviceWrite port addr v s).video.length = s.video.length ∧
    (deviceWrite port addr v s).attr.length = s.attr.length ∧
    (deviceWrite port addr v s).settings.length = s.settings.length := by
  cases port <;> simp [deviceWrite, transmit, settingsWrite]

/-! The invariant. -/

theorem busWrite_keeps_inv (addr : Addr) (v : Byte) {s : State} (hs : Inv s) : Inv (busWrite addr v s) := by
  obtain ⟨-, hw⟩ | ⟨-, ⟨port, hw⟩ | hw⟩ := busWrite_cases addr v s
  · rw [hw]
    exact hs.congr (Memory.wf_write hs.memWf addr.isLt v) rfl rfl rfl rfl
  · obtain ⟨hvideo, hattr, hsettings⟩ := deviceWrite_lengths port addr v s
    have hp : (deviceWrite port addr v s).p = s.p := by rw [deviceWrite_state]
    rw [hw]
    exact hs.congr (by rw [deviceWrite_mem, hs.memWf]) hvideo hattr hsettings (by rw [hp])
  · rwa [hw]

theorem action_keeps_inv {s t : State} (h : Action s t) (hs : Inv s) : Inv t := by
  cases h with
  | read addr => exact hs.congr (by simp [hs.memWf]) (by simp) (by simp) (by simp) (by simp)
  | write addr v => exact busWrite_keeps_inv addr v hs
  | registers => exact hs.congr hs.memWf rfl rfl rfl rfl
  | status s p hu => exact hs.congr hs.memWf rfl rfl rfl hu
  | diag => exact hs.congr hs.memWf rfl rfl rfl rfl

theorem stepWith_keeps_inv {m : OpcodeMap} {s t : State} (hs : Inv s) (h : stepWith m s = .next t) : Inv t :=
  Actions.induct (R := fun s t => Inv s → Inv t) (fun _ => id) (fun h h' => h' ∘ h) action_keeps_inv
    (stepWith_actions h) hs

/-- Settles O34: every action of a step keeps the invariant. -/
theorem stepKeepsTheInvariant : Obligations.StepKeepsTheInvariant :=
  ⟨fun _ _ => stepWith_keeps_inv, fun _ _ _ => stepWith_keeps_inv⟩

/-! What only the controller changes. -/

theorem SameControl.refl (s : State) : SameControl s s := ⟨rfl, rfl, rfl, rfl, rfl⟩

theorem SameControl.trans {s t u : State} (h : SameControl s t) (h' : SameControl t u) : SameControl s u :=
  ⟨h'.power.trans h.power, h'.romLoaded.trans h.romLoaded, h'.cursor.trans h.cursor,
    h'.cursorVisible.trans h.cursorVisible, h'.txCallback.trans h.txCallback⟩

theorem action_keeps_control {s t : State} (h : Action s t) : SameControl s t := by
  cases h with
  | read addr => exact ⟨by simp, by simp, by simp, by simp, by simp⟩
  | write addr v => exact ⟨by simp, by simp, by simp, by simp, by simp⟩
  | registers => exact ⟨rfl, rfl, rfl, rfl, rfl⟩
  | status => exact ⟨rfl, rfl, rfl, rfl, rfl⟩
  | diag => exact ⟨rfl, rfl, rfl, rfl, rfl⟩

theorem stepWith_keeps_control {m : OpcodeMap} {s t : State} (h : stepWith m s = .next t) : SameControl s t :=
  Actions.induct .refl .trans action_keeps_control (stepWith_actions h)

/-- Settles O44: no action of a step reaches the controller's fields. -/
theorem stepsNeverTouchControlState : Obligations.StepsNeverTouchControlState :=
  fun _ _ _ => stepWith_keeps_control

/-! The transmit log and the events (R144). -/

/-- From `s` to `t` the log gains `bytes` and the events gain `events`, whose `Tx` bytes are those of the log if a
callback is registered, and none otherwise; the callback stays. -/
structure Transmitted (bytes : List Byte) (events : List Event) (s t : State) : Prop where
  log : t.uartTxLog = s.uartTxLog ++ bytes
  emitted : t.events = s.events ++ events
  sent : events.filterMap Event.sent = if s.txCallback then bytes else []
  txCallback : t.txCallback = s.txCallback

theorem Transmitted.nothing {s t : State} (hlog : t.uartTxLog = s.uartTxLog) (hevents : t.events = s.events)
    (hcallback : t.txCallback = s.txCallback) : Transmitted [] [] s t :=
  ⟨by simpa, by simpa, by simp, hcallback⟩

theorem Transmitted.trans {bytes bytes' : List Byte} {events events' : List Event} {s t u : State}
    (h : Transmitted bytes events s t) (h' : Transmitted bytes' events' t u) :
    Transmitted (bytes ++ bytes') (events ++ events') s u := by
  refine ⟨by rw [h'.log, h.log, List.append_assoc], by rw [h'.emitted, h.emitted, List.append_assoc], ?_,
    h'.txCallback.trans h.txCallback⟩
  rw [List.filterMap_append, h.sent, h'.sent, h.txCallback]
  cases s.txCallback <;> rfl

theorem deviceWrite_transmitted (port : WritePort) (addr : Addr) (v : Byte) (s : State) :
    ∃ bytes events, Transmitted bytes events s (deviceWrite port addr v s) := by
  cases port with
  | video => exact ⟨[], [], .nothing rfl rfl rfl⟩
  | attr => exact ⟨[], [], .nothing rfl rfl rfl⟩
  | uartData =>
    refine ⟨[v], if s.txCallback then [.tx v] else [], ?_⟩
    simp only [deviceWrite, transmit_eq]
    exact ⟨rfl, rfl, by cases s.txCallback <;> rfl, rfl⟩
  | settings => exact ⟨[], [.save _], by simp [deviceWrite, settingsWrite], rfl, by simp [Event.sent], rfl⟩

theorem busWrite_transmitted (addr : Addr) (v : Byte) (s : State) :
    ∃ bytes events, Transmitted bytes events s (busWrite addr v s) := by
  obtain ⟨-, hw⟩ | ⟨-, ⟨port, hw⟩ | hw⟩ := busWrite_cases addr v s
  · rw [hw]
    exact ⟨[], [], .nothing rfl rfl rfl⟩
  · rw [hw]
    exact deviceWrite_transmitted port addr v s
  · rw [hw]
    exact ⟨[], [], .nothing rfl rfl rfl⟩

theorem action_transmitted {s t : State} (h : Action s t) : ∃ bytes events, Transmitted bytes events s t := by
  cases h with
  | read addr => exact ⟨[], [], .nothing (by simp) (by simp) (by simp)⟩
  | write addr v => exact busWrite_transmitted addr v s
  | registers => exact ⟨[], [], .nothing rfl rfl rfl⟩
  | status => exact ⟨[], [], .nothing rfl rfl rfl⟩
  | diag op addr => exact ⟨[], [.diag op addr], by simp [State.emit], rfl, by simp [Event.sent], rfl⟩

theorem stepWith_transmitted {m : OpcodeMap} {s t : State} (h : stepWith m s = .next t) :
    ∃ bytes events, Transmitted bytes events s t :=
  Actions.induct (R := fun s t => ∃ bytes events, Transmitted bytes events s t)
    (fun _ => ⟨[], [], .nothing rfl rfl rfl⟩) (fun ⟨_, _, h⟩ ⟨_, _, h'⟩ => ⟨_, _, h.trans h'⟩)
    action_transmitted (stepWith_actions h)

/-- Settles O42: each action extends the log and the events, and extensions compose. -/
theorem transmitLogOnlyGrows : Obligations.TransmitLogOnlyGrows := fun _ _ _ hstep =>
  have ⟨bytes, events, h⟩ := stepWith_transmitted hstep
  ⟨bytes, events, h.log, h.emitted, h.sent⟩

end Sys2Proof.Machine
end

section
/-! PROOFS. Flat memory as data, the flags, the stack, and the registers each instruction leaves (10_state.md R11 to
R18, R20, R24 to R29). -/

namespace Sys2Proof.Machine

/-! The canonical form (R20). -/

/-- The first cell of a canonical memory is what its address reads as. -/
theorem Memory.read_head (k : Nat) (b : Byte) (m : Memory) : Memory.read ((k, b) :: m) k = b := by
  simp [Memory.read]

/-- A canonical memory is canonical from its first cell up. -/
theorem Memory.wfFrom_head {lo k : Nat} {b : Byte} {m : Memory} (h : Memory.wfFrom lo ((k, b) :: m) = true) :
    Memory.wfFrom k ((k, b) :: m) = true := by
  rw [Memory.wfFrom_cons] at h ⊢
  exact ⟨le_rfl, h.2⟩

/-- A canonical memory that begins past the first cell of another reads differently there. -/
theorem Memory.read_head_ne {lo lo' k : Nat} {b : Byte} {m m' : Memory}
    (h : Memory.wfFrom lo ((k, b) :: m) = true) (h' : Memory.wfFrom lo' m' = true) (hlt : k < lo') :
    Memory.read ((k, b) :: m) k ≠ m'.read k := by
  obtain ⟨-, -, hb, -⟩ := (Memory.wfFrom_cons _ _ _ _).1 h
  rwa [Memory.read_head, Memory.read_below h' hlt]

/-- Two canonical memories that read alike have the same first cell, and then the same cells after it. -/
theorem Memory.eq_of_read_eq {m m' : Memory} {lo lo' : Nat} (h : Memory.wfFrom lo m = true)
    (h' : Memory.wfFrom lo' m' = true) (hread : ∀ k, m.read k = m'.read k) : m = m' := by
  induction m generalizing m' lo lo' with
  | nil =>
    cases m' with
    | nil => rfl
    | cons c' rest' => exact absurd (hread c'.1).symm (Memory.read_head_ne h' (lo' := c'.1 + 1) rfl (by omega))
  | cons c rest ih =>
    obtain ⟨k, b⟩ := c
    cases m' with
    | nil => exact absurd (hread k) (Memory.read_head_ne h (lo' := k + 1) rfl (by omega))
    | cons c' rest' =>
      obtain ⟨k', b'⟩ := c'
      have hkk : k = k' := by
        rcases Nat.lt_trichotomy k k' with hlt | heq | hlt
        · exact absurd (hread k) (Memory.read_head_ne h (Memory.wfFrom_head h') hlt)
        · exact heq
        · exact absurd (hread k').symm (Memory.read_head_ne h' (Memory.wfFrom_head h) hlt)
      subst hkk
      have hbb : b = b' := by simpa only [Memory.read_head] using hread k
      obtain ⟨-, -, -, hrest⟩ := (Memory.wfFrom_cons _ _ _ _).1 h
      obtain ⟨-, -, -, hrest'⟩ := (Memory.wfFrom_cons _ _ _ _).1 h'
      have htail : ∀ j, Memory.read rest j = Memory.read rest' j := by
        intro j
        by_cases hj : k < j
        · simpa [Memory.read, hj] using hread j
        · rw [Memory.read_below hrest (by omega), Memory.read_below hrest' (by omega)]
      rw [hbb, ih hrest hrest' htail]

/-- Settles O17: the canonical form lists exactly the bytes that differ from unlisted ones, in order. -/
theorem equalMemoriesAreEqualData : Obligations.EqualMemoriesAreEqualData :=
  fun _ _ => Memory.eq_of_read_eq

/-! Flags (R24). -/

theorem getFlag_zero_updateZN (v p : Byte) : getFlag Config.flagBits.z (updateZN v p) = (v == 0) := by
  rw [getFlag_updateZN, if_neg (by decide), if_pos rfl]

theorem getFlag_negative_updateZN (v p : Byte) : getFlag Config.flagBits.n (updateZN v p) = v.getLsbD 7 := by
  rw [getFlag_updateZN, if_pos rfl]

theorem getFlag_other_updateZN {j : Nat} (hz : j ≠ Config.flagBits.z) (hn : j ≠ Config.flagBits.n) (v p : Byte) :
    getFlag j (updateZN v p) = getFlag j p := by
  rw [getFlag_updateZN, if_neg hn, if_neg hz]

/-- Settles O18: the two flags as `updateZN` sets them; a byte with bit 7 set is not 0. -/
theorem updateZNWritesZeroAndNegative : Obligations.UpdateZNWritesZeroAndNegative := by
  intro v p
  rw [getFlag_zero_updateZN, getFlag_negative_updateZN]
  refine ⟨?_, rfl, fun j hz hn => getFlag_other_updateZN hz hn v p, ?_⟩
  · rw [Nat.mod_eq_of_lt v.isLt, Bool.eq_iff_iff]
    simp [BitVec.toNat_eq]
  · rintro ⟨hzero, hnegative⟩
    rw [beq_iff_eq.1 hzero] at hnegative
    exact absurd hnegative (by decide)

/-! The stack (R25 to R29). -/

/-- R25: the decrement wraps modulo 256. -/
theorem sp_sub_one_toNat (sp : Byte) : (sp - 1).toNat = (sp.toNat + 255) % 256 := by
  rw [BitVec.toNat_sub, Nat.add_comm]
  rfl

/-- R26: the increment wraps modulo 256. -/
theorem sp_add_one_toNat (sp : Byte) : (sp + 1).toNat = (sp.toNat + 1) % 256 := by
  rw [BitVec.toNat_add]
  rfl

/-- R29, for a byte. -/
theorem pop_push (b : Byte) {s : State} (hs : s.mem.wf = true) :
    (pop (push b s)).1 = b ∧ (pop (push b s)).2.sp = s.sp := by
  have hsp : s.sp - 1 + 1 = s.sp := by ring
  simp only [pop_eq, push_eq, hsp, Memory.read_write_self hs (slot_lt s.sp), and_self]

/-- R29, for a word. -/
theorem popWord_pushWord (w : Addr) {s : State} (hs : s.mem.wf = true) :
    (popWord (pushWord w s)).1 = w ∧ (popWord (pushWord w s)).2.sp = s.sp := by
  have hsp : (pushWord w s).sp + 2 = s.sp := by rw [pushWord_eq]; ring
  have hsp' : (pushWord w s).sp + 1 = s.sp - 1 := by rw [pushWord_eq]; ring
  obtain ⟨-, hhi, hlo, -⟩ := pushWord_mem w s hs
  simp only [popWord_eq, hsp, hsp', hhi, hlo, wordOf_hiByte_loByte, and_self]

/-- Settles O19. -/
theorem pushThenPopRoundTrips : Obligations.PushThenPopRoundTrips :=
  fun _ hs => ⟨fun b => pop_push b hs, fun w => popWord_pushWord w hs⟩

/-- Settles O20: one write to the slot of `SP`, or one read from the slot above it. -/
theorem pushAndPopMoveOneByte : Obligations.PushAndPopMoveOneByte := by
  intro b s hs
  rw [push_eq, pop_eq, ← sp_sub_one_toNat, ← sp_add_one_toNat]
  refine ⟨⟨Memory.read_write_self hs (slot_lt s.sp) b, fun k hk => ?_, rfl, rfl⟩, rfl, rfl, rfl⟩
  exact Memory.read_write_other hs (slot_lt s.sp) b (mt List.mem_singleton.2 hk)

/-- Settles O21: what two pushes leave in memory. -/
theorem pushWordPutsHighByteFirst : Obligations.PushWordPutsHighByteFirst := by
  intro w s hs
  rw [← sp_sub_one_toNat]
  obtain ⟨-, hhi, hlo, hother⟩ := pushWord_mem w s hs
  refine ⟨by rw [hhi, hiByte_toNat], by rw [hlo, loByte_toNat], fun k hk => ?_, by rw [pushWord_eq], by rw [pushWord_eq]⟩
  simp only [List.mem_cons, List.not_mem_nil, or_false, not_or] at hk
  exact hother k hk.1 hk.2

/-! The registers after an instruction. -/

/-- The CPU registers but `PC` after an instruction, as functions of those before it and of the operand byte. -/
structure RegistersAfter (i : Instr) (s t : State) : Prop where
  a : t.a = if i = .ldaImm then (busRead s.pc s).1 else s.a
  x : t.x = if i = .ldxImm then (busRead s.pc s).1 else s.x
  y : t.y = if i = .ldyImm then (busRead s.pc s).1 else s.y
  p : t.p =
    if i = .brk then setFlag Config.flagBits.i true s.p
    else if i = .ldaImm ∨ i = .ldxImm ∨ i = .ldyImm then updateZN (busRead s.pc s).1 s.p
    else s.p
  sp : t.sp =
    if i = .jsr then s.sp - 2
    else if i = .brk then s.sp - 3
    else if i = .rts then s.sp + 2
    else s.sp

theorem exec_registers {i : Instr} {s t : State} (h : exec i s = .next t) : RegistersAfter i s t := by
  cases i with
  | brk => cases h.symm.trans (exec_brk s); constructor <;> simp [takeBreak_eq]
  | ldaImm => cases h.symm.trans (exec_ldaImm s); constructor <;> simp
  | ldxImm => cases h.symm.trans (exec_ldxImm s); constructor <;> simp
  | ldyImm => cases h.symm.trans (exec_ldyImm s); constructor <;> simp
  | staZp => cases h.symm.trans (exec_staZp s); constructor <;> simp
  | staAbs => cases h.symm.trans (exec_staAbs s); constructor <;> simp
  | jmpAbs => cases h.symm.trans (exec_jmpAbs s); constructor <;> simp
  | jsr => cases h.symm.trans (exec_jsr s); constructor <;> simp [pushWord_eq]
  | rts => cases h.symm.trans (exec_rts s); constructor <;> simp
  | nop => cases h.symm.trans (exec_nop s); constructor <;> simp
  | unimpl op => cases h.symm.trans (exec_unimpl op s); constructor <;> simp

/-- Settles O38. -/
theorem onlyItsLoadWritesARegister : Obligations.OnlyItsLoadWritesARegister := by
  intro i s t h
  obtain ⟨ha, hx, hy, -, -⟩ := exec_registers h
  exact ⟨fun hi => by rw [ha, if_neg hi], fun hi => by rw [hx, if_neg hi], fun hi => by rw [hy, if_neg hi]⟩

/-- Settles O39: `P` after is `P` with I set for `BRK`, `updateZN` of it for a load, and `P` itself otherwise. -/
theorem flagsChangeOnlyAsTabled : Obligations.FlagsChangeOnlyAsTabled := by
  intro i s t h
  have hp := (exec_registers h).p
  by_cases hbrk : i = .brk
  · have hflag : ∀ j, getFlag j t.p = if j = Config.flagBits.i then true else getFlag j s.p := fun j => by
      rw [hp, if_pos hbrk, getFlag_setFlag _ _ _ _ (by decide)]
    refine ⟨fun j _ _ hi => by rw [hflag, if_neg hi], by rw [hflag, if_pos rfl, decide_eq_true hbrk]; rfl, fun _ _ _ => ?_⟩
    exact ⟨by rw [hflag, if_neg (by decide)], by rw [hflag, if_neg (by decide)]⟩
  · rw [if_neg hbrk] at hp
    by_cases hload : i = .ldaImm ∨ i = .ldxImm ∨ i = .ldyImm
    · rw [if_pos hload] at hp
      have hkept : ∀ j, j ≠ Config.flagBits.z → j ≠ Config.flagBits.n → getFlag j t.p = getFlag j s.p :=
        fun j hz hn => by rw [hp, getFlag_other_updateZN hz hn]
      refine ⟨fun j hz hn _ => hkept j hz hn, ?_, fun ha hx hy => absurd hload (by simp [ha, hx, hy])⟩
      rw [hkept _ (by decide) (by decide), decide_eq_false hbrk, Bool.false_or]
    · rw [if_neg hload] at hp
      rw [hp, decide_eq_false hbrk]
      exact ⟨fun _ _ _ _ => rfl, rfl, fun _ _ _ => ⟨rfl, rfl⟩⟩

/-- Settles O40. -/
theorem stackPointerMovesOnlyAsStated : Obligations.StackPointerMovesOnlyAsStated := by
  intro i s t h
  rw [(exec_registers h).sp]
  cases i <;> rfl

end Sys2Proof.Machine
end

section
/-! PROOFS. What a machine never looks at: a relation between two machines that every part of an instruction respects is
kept by a step of both (10_state.md R12, R13, R30). -/

namespace Sys2Proof.Machine

/-- The named updates that instructions make without the Bus. -/
inductive Update : (State → State) → Prop
  | setA (v : Byte) : Update (fun s => s.setA v)
  | setX (v : Byte) : Update (fun s => s.setX v)
  | setY (v : Byte) : Update (fun s => s.setY v)
  | setPc (v : Addr) : Update (fun s => s.setPc v)
  | setSp (v : Byte) : Update (fun s => s.setSp v)
  | setP (v : Byte) : Update (fun s => s.setP v)
  | charge (n : Nat) : Update (fun s => s.charge n)
  | emit (e : Event) : Update (fun s => s.emit e)

/-- `R` relates machines that an instruction cannot tell apart: what it looks at agrees, and everything it does keeps
them related. -/
structure Simulation (R : State → State → Prop) : Prop where
  power {s s'} : R s s' → s'.power = s.power
  a {s s'} : R s s' → s'.a = s.a
  pc {s s'} : R s s' → s'.pc = s.pc
  sp {s s'} : R s s' → s'.sp = s.sp
  p {s s'} : R s s' → s'.p = s.p
  update {f s s'} : Update f → R s s' → R (f s) (f s')
  read {s s'} (addr : Addr) : R s s' →
    (busRead addr s').1 = (busRead addr s).1 ∧ R (busRead addr s).2 (busRead addr s').2
  write {s s'} (addr : Addr) (v : Byte) : R s s' → R (busWrite addr v s) (busWrite addr v s')

namespace Simulation

variable {R : State → State → Prop} (hR : Simulation R) {s s' : State} (h : R s s')
include hR h

theorem fetchByte_related :
    (busRead s'.pc s').1 = (busRead s.pc s).1 ∧
      R ((busRead s.pc s).2.setPc ((busRead s.pc s).2.pc + 1))
        ((busRead s'.pc s').2.setPc ((busRead s'.pc s').2.pc + 1)) := by
  obtain ⟨hbyte, hafter⟩ := hR.read s.pc h
  simp only [busRead_pc, hR.pc h]
  exact ⟨hbyte, hR.update (.setPc _) hafter⟩

theorem readWord_related (addr : Addr) :
    (readWord addr s').1 = (readWord addr s).1 ∧ R (readWord addr s).2 (readWord addr s').2 := by
  obtain ⟨hlo, hafterLo⟩ := hR.read addr h
  obtain ⟨hhi, hafterHi⟩ := hR.read (addr + 1) hafterLo
  exact ⟨congrArg₂ wordOf hhi hlo, hafterHi⟩

theorem fetchAbs16_related :
    (fetchAbs16 s').1 = (fetchAbs16 s).1 ∧ R (fetchAbs16 s).2 (fetchAbs16 s').2 := by
  obtain ⟨hword, hafter⟩ := hR.readWord_related h s.pc
  simp only [fetchAbs16, readWord_pc, hR.pc h]
  exact ⟨hword, hR.update (.setPc _) hafter⟩

theorem jumpAbs16_related : R (jumpAbs16 s) (jumpAbs16 s') := by
  obtain ⟨hword, hafter⟩ := hR.readWord_related h s.pc
  simp only [jumpAbs16, hR.pc h, hword]
  exact hR.update (.setPc _) hafter

theorem push_related (b : Byte) : R (push b s) (push b s') := by
  simp only [push, busWrite_sp, hR.sp h]
  exact hR.update (.setSp _) (hR.write _ _ h)

theorem pushWord_related (w : Addr) : R (pushWord w s) (pushWord w s') :=
  hR.push_related (hR.push_related h (hiByte w)) (loByte w)

theorem pop_related : (pop s').1 = (pop s).1 ∧ R (pop s).2 (pop s').2 := by
  simp only [pop, State.setSp_sp, hR.sp h]
  exact hR.read _ (hR.update (.setSp (s.sp + 1)) h)

theorem popWord_related : (popWord s').1 = (popWord s).1 ∧ R (popWord s).2 (popWord s').2 := by
  obtain ⟨hlo, hafterLo⟩ := hR.pop_related h
  obtain ⟨hhi, hafterHi⟩ := hR.pop_related hafterLo
  exact ⟨congrArg₂ wordOf hhi hlo, hafterHi⟩

theorem takeBreak_related : R (takeBreak s) (takeBreak s') := by
  have hpushes := hR.push_related (hR.pushWord_related h (s.pc + 1)) (breakCopy s.p)
  have hstatus := hR.update (.setP (setFlag Config.flagBits.i true s.p)) hpushes
  obtain ⟨htarget, hafter⟩ := hR.readWord_related hstatus Config.brkVector
  simp only [takeBreak, pushWord_p, push_p, hR.pc h, hR.p h, htarget]
  exact hR.update (.setPc _) hafter

/-- What the three loads do, with `write` the register's own update. -/
theorem load_related {write : Byte → State → State} (hwrite : ∀ v, Update (write v)) :
    R (((write (fetchImm8 s).1 (fetchImm8 s).2).setP (updateZN (fetchImm8 s).1 (fetchImm8 s).2.p)).charge 2)
      (((write (fetchImm8 s').1 (fetchImm8 s').2).setP (updateZN (fetchImm8 s').1 (fetchImm8 s').2.p)).charge 2) := by
  obtain ⟨hbyte, hafter⟩ := hR.fetchByte_related h
  have hv : (fetchImm8 s').1 = (fetchImm8 s).1 := hbyte
  rw [hv, fetchImm8_p, fetchImm8_p, hR.p h]
  exact hR.update (.charge _) (hR.update (.setP _) (hR.update (hwrite _) hafter))

/-- Related machines execute an instruction alike. -/
theorem exec_related {i : Instr} {t : State} (ht : exec i s = .next t) : ∃ t', exec i s' = .next t' ∧ R t t' := by
  cases i <;> cases ht <;> refine ⟨_, rfl, ?_⟩
  case brk => exact hR.update (.charge _) (hR.takeBreak_related h)
  case ldaImm => exact hR.load_related h .setA
  case ldxImm => exact hR.load_related h .setX
  case ldyImm => exact hR.load_related h .setY
  case staZp =>
    obtain ⟨hbyte, hafter⟩ := hR.fetchByte_related h
    have hz : (fetchZp8 s').1 = (fetchZp8 s).1 := congrArg zext16 hbyte
    rw [hz, fetchZp8_a, fetchZp8_a, hR.a h]
    exact hR.update (.charge _) (hR.write _ _ hafter)
  case staAbs =>
    obtain ⟨hd, hafter⟩ := hR.fetchAbs16_related h
    rw [hd, fetchAbs16_a, fetchAbs16_a, hR.a h]
    exact hR.update (.charge _) (hR.write _ _ hafter)
  case jmpAbs => exact hR.update (.charge _) (hR.jumpAbs16_related h)
  case jsr =>
    rw [hR.pc h]
    exact hR.update (.charge _) (hR.jumpAbs16_related (hR.pushWord_related h _))
  case rts =>
    obtain ⟨hw, hafter⟩ := hR.popWord_related h
    rw [hw]
    exact hR.update (.charge _) (hR.update (.setPc _) hafter)
  case nop => exact hR.update (.charge _) h
  case unimpl op =>
    rw [hR.pc h]
    exact hR.update (.charge _) (hR.update (.emit _) h)

/-- Related machines do a step alike. -/
theorem stepWith_related {m : OpcodeMap} {t : State} (ht : stepWith m s = .next t) :
    ∃ t', stepWith m s' = .next t' ∧ R t t' := by
  obtain ⟨hoff, rfl⟩ | ⟨hon, hexec⟩ := stepWith_cases ht
  · exact ⟨s', by simp only [stepWith, hR.power h, hoff], h⟩
  · obtain ⟨hbyte, hafter⟩ := hR.fetchByte_related h
    have hop : (fetchOpcode s').1 = (fetchOpcode s).1 := hbyte
    obtain ⟨t', ht', hrel⟩ := hR.exec_related hafter hexec
    refine ⟨t', ?_, hrel⟩
    simp only [stepWith, hR.power h, hon, cpuStepWith, hop]
    exact ht'

end Simulation

/-! No device looks at X, Y or flat memory. -/

theorem deviceRead_hidden (port : ReadPort) (addr : Addr) (x y : Byte) (m : Memory) (s : State) :
    deviceRead port addr { s with x := x, y := y, mem := m } =
      ((deviceRead port addr s).1, { (deviceRead port addr s).2 with x := x, y := y, mem := m }) := by
  cases port with
  | video => simp only [deviceRead, cellRead]; split <;> rfl
  | attr => simp only [deviceRead, cellRead]; split <;> rfl
  | _ => rfl

theorem busRead_window_hidden {addr : Addr} (h : regionOf addr ≠ .flat) (x y : Byte) (m : Memory) (s : State) :
    busRead addr { s with x := x, y := y, mem := m } =
      ((busRead addr s).1, { (busRead addr s).2 with x := x, y := y, mem := m }) := by
  rw [ne_eq, ← findHandler_eq_none_iff] at h
  unfold busRead busReadVia
  split
  · contradiction
  · split
    · exact deviceRead_hidden _ _ _ _ _ _
    · rfl

theorem busWrite_window_hidden {addr : Addr} (h : regionOf addr ≠ .flat) (v x y : Byte) (m : Memory) (s : State) :
    busWrite addr v { s with x := x, y := y, mem := m } =
      { busWrite addr v s with x := x, y := y, mem := m } := by
  rw [ne_eq, ← findHandler_eq_none_iff] at h
  unfold busWrite busWriteVia
  split
  · contradiction
  · split
    · next port _ => cases port <;> rfl
    · rfl

/-! X and Y (R12, R13). -/

/-- Machines that differ in X and Y only. -/
def SameButIndexes (s s' : State) : Prop := ∃ x y : Byte, s' = { s with x := x, y := y }

theorem busRead_indexes (addr : Addr) (x y : Byte) (s : State) :
    busRead addr { s with x := x, y := y } = ((busRead addr s).1, { (busRead addr s).2 with x := x, y := y }) := by
  by_cases hflat : regionOf addr = .flat
  · simp only [busRead_flat (findHandler_of_flat hflat)]
  · simpa using busRead_window_hidden hflat x y s.mem s

theorem busWrite_indexes (addr : Addr) (v x y : Byte) (s : State) :
    busWrite addr v { s with x := x, y := y } = { busWrite addr v s with x := x, y := y } := by
  by_cases hflat : regionOf addr = .flat
  · simp only [busWrite_flat (findHandler_of_flat hflat)]
  · simpa [busWrite_mem_window hflat] using busWrite_window_hidden hflat v x y s.mem s

theorem sameButIndexes_simulation : Simulation SameButIndexes where
  power := by rintro s _ ⟨x, y, rfl⟩; rfl
  a := by rintro s _ ⟨x, y, rfl⟩; rfl
  pc := by rintro s _ ⟨x, y, rfl⟩; rfl
  sp := by rintro s _ ⟨x, y, rfl⟩; rfl
  p := by rintro s _ ⟨x, y, rfl⟩; rfl
  update := by rintro f s _ hf ⟨x, y, rfl⟩; cases hf <;> exact ⟨_, _, rfl⟩
  read := by
    rintro s _ addr ⟨x, y, rfl⟩
    rw [busRead_indexes]
    exact ⟨rfl, x, y, rfl⟩
  write := by
    rintro s _ addr v ⟨x, y, rfl⟩
    exact ⟨x, y, busWrite_indexes addr v x y s⟩

/-- Settles O45: machines that differ in X and Y only do a step alike. -/
theorem indexRegistersAreNeverRead : Obligations.IndexRegistersAreNeverRead := by
  intro m s t x y ht
  obtain ⟨_, ht', x', y', rfl⟩ := sameButIndexes_simulation.stepWith_related ⟨x, y, rfl⟩ ht
  exact ⟨_, ht', rfl⟩

/-! The bytes of flat memory under windows (R30). -/

/-- From `s` to `t` canonical memory stays canonical and keeps its bytes under windows. -/
def KeepsHiddenBytes (s t : State) : Prop :=
  s.mem.wf = true → t.mem.wf = true ∧ ∀ a : Addr, regionOf a ≠ .flat → t.mem.read a.toNat = s.mem.read a.toNat

theorem KeepsHiddenBytes.of_mem_eq {s t : State} (h : t.mem = s.mem) : KeepsHiddenBytes s t :=
  fun hs => ⟨by rw [h, hs], fun _ _ => by rw [h]⟩

theorem KeepsHiddenBytes.trans {s t u : State} (h : KeepsHiddenBytes s t) (h' : KeepsHiddenBytes t u) :
    KeepsHiddenBytes s u := fun hs =>
  have ⟨ht, hread⟩ := h hs
  have ⟨hu, hread'⟩ := h' ht
  ⟨hu, fun a ha => (hread' a ha).trans (hread a ha)⟩

theorem busWrite_keepsHiddenBytes (addr : Addr) (v : Byte) (s : State) : KeepsHiddenBytes s (busWrite addr v s) := by
  by_cases hflat : regionOf addr = .flat
  · rw [busWrite_flat (findHandler_of_flat hflat)]
    refine fun hs => ⟨Memory.wf_write hs addr.isLt v, fun a ha => Memory.read_write_other hs addr.isLt v fun e => ha ?_⟩
    rw [BitVec.eq_of_toNat_eq e, hflat]
  · exact .of_mem_eq (busWrite_mem_window hflat v s)

theorem action_keepsHiddenBytes {s t : State} (h : Action s t) : KeepsHiddenBytes s t := by
  cases h with
  | read addr => exact .of_mem_eq (busRead_mem addr s)
  | write addr v => exact busWrite_keepsHiddenBytes addr v s
  | registers => exact .of_mem_eq rfl
  | status => exact .of_mem_eq rfl
  | diag => exact .of_mem_eq rfl

theorem stepWith_keepsHiddenBytes {m : OpcodeMap} {s t : State} (h : stepWith m s = .next t) : KeepsHiddenBytes s t :=
  Actions.induct (fun _ => .of_mem_eq rfl) .trans action_keepsHiddenBytes (stepWith_actions h)

/-- Machines that differ in the bytes of flat memory under windows only. -/
def SameButHiddenBytes (s s' : State) : Prop :=
  s.mem.wf = true ∧ ∃ m : Memory, m.wf = true ∧ s' = { s with mem := m } ∧
    ∀ a : Addr, regionOf a = .flat → m.read a.toNat = s.mem.read a.toNat

theorem busRead_sameButHiddenBytes (addr : Addr) {s s' : State} (h : SameButHiddenBytes s s') :
    (busRead addr s').1 = (busRead addr s).1 ∧ SameButHiddenBytes (busRead addr s).2 (busRead addr s').2 := by
  obtain ⟨hs, m, hm, rfl, hread⟩ := h
  by_cases hflat : regionOf addr = .flat
  · simp only [busRead_flat (findHandler_of_flat hflat)]
    exact ⟨hread addr hflat, hs, m, hm, rfl, hread⟩
  · have hwindow := busRead_window_hidden hflat s.x s.y m s
    rw [hwindow]
    exact ⟨rfl, by rwa [busRead_mem], m, hm, by simp, by simpa using hread⟩

theorem busWrite_sameButHiddenBytes (addr : Addr) (v : Byte) {s s' : State} (h : SameButHiddenBytes s s') :
    SameButHiddenBytes (busWrite addr v s) (busWrite addr v s') := by
  obtain ⟨hs, m, hm, rfl, hread⟩ := h
  by_cases hflat : regionOf addr = .flat
  · simp only [busWrite_flat (findHandler_of_flat hflat)]
    refine ⟨Memory.wf_write hs addr.isLt v, _, Memory.wf_write hm addr.isLt v, rfl, fun a ha => ?_⟩
    rw [Memory.read_write hm addr.isLt, Memory.read_write hs addr.isLt, hread a ha]
  · have hwindow := busWrite_window_hidden hflat v s.x s.y m s
    have hmem := busWrite_mem_window hflat v s
    rw [hwindow]
    exact ⟨by rwa [hmem], m, hm, by simp, by rwa [hmem]⟩

theorem sameButHiddenBytes_simulation : Simulation SameButHiddenBytes where
  power := by rintro s _ ⟨-, m, -, rfl, -⟩; rfl
  a := by rintro s _ ⟨-, m, -, rfl, -⟩; rfl
  pc := by rintro s _ ⟨-, m, -, rfl, -⟩; rfl
  sp := by rintro s _ ⟨-, m, -, rfl, -⟩; rfl
  p := by rintro s _ ⟨-, m, -, rfl, -⟩; rfl
  update := by
    rintro f s _ hf ⟨hs, m, hm, rfl, hread⟩
    cases hf <;> exact ⟨hs, m, hm, rfl, hread⟩
  read := fun addr h => busRead_sameButHiddenBytes addr h
  write := fun addr v h => busWrite_sameButHiddenBytes addr v h

/-- Settles O46: machines that differ under windows only do a step alike, which keeps the bytes there. -/
theorem bytesUnderWindowsAreInvisible : Obligations.BytesUnderWindowsAreInvisible := by
  intro c s t m hs hm hread ht
  have hrel : SameButHiddenBytes s { s with mem := m } := ⟨hs, m, hm, rfl, hread⟩
  obtain ⟨_, ht', -, m', -, rfl, hflat⟩ := sameButHiddenBytes_simulation.stepWith_related hrel ht
  obtain ⟨-, hhidden⟩ := stepWith_keepsHiddenBytes ht' hm
  refine ⟨_, ht', rfl, fun a => ?_⟩
  split
  · next ha => exact hflat a ha
  · next ha => exact hhidden a ha

end Sys2Proof.Machine
end

section
/-! PROOFS. The Bus against the address map, region by region (20_memory.md R41 to R53, 60_exceptions.md R140 to R152), and
an image in flat memory (R46). -/

namespace Sys2Proof.Machine

/-! Dispatch (R42 to R44, R47). -/

/-- R43, R44: registrations in front that do not contain the address are passed over. -/
theorem findHandler_append_cons {before : List Registration} {h : Registration} {a : Addr}
    (hbefore : ∀ g ∈ before, g.contains a = false) (hcontains : h.contains a = true) (rest : List Registration) :
    findHandler (before ++ h :: rest) a = some h := by
  induction before with
  | nil => simp [findHandler, hcontains]
  | cons g before ih =>
    rw [List.forall_mem_cons] at hbefore
    simp [findHandler, hbefore.1, ih hbefore.2]

/-- Settles O14: what dispatch finds decides the access. -/
theorem firstRegistrationWins : Obligations.FirstRegistrationWins := by
  refine ⟨fun _ _ => rfl, Registration.contains_iff, fun before rest h a v s hbefore hcontains => ?_,
    fun hs a v s hnone => ?_⟩
  · have hfind := findHandler_append_cons hbefore hcontains rest
    constructor
    · cases honRead : h.onRead <;> simp only [busReadVia, hfind, honRead]
    · cases honWrite : h.onWrite <;> simp only [busWriteVia, hfind, honWrite]
  · have hfind := findHandler_eq_none.2 hnone
    exact ⟨by simp only [busReadVia, hfind], by simp only [busWriteVia, hfind]⟩

/-! Masks and words (R41, R45). -/

/-- Settles O15: the address of the high byte is `a + 1` of 16 bits. -/
theorem readWordIsTwoReadsLowFirst : Obligations.ReadWordIsTwoReadsLowFirst := by
  intro a s
  have hnext : BitVec.ofNat 16 ((a.toNat + 1) % 65536) = a + 1 := BitVec.eq_of_toNat_eq (by simp)
  rw [hnext]
  exact ⟨wordOf_toNat _ _, rfl⟩

/-- Settles O16: a number and its remainder are the same word, and a word's number is that word. -/
theorem busMasksAddressesAndValues : Obligations.BusMasksAddressesAndValues := by
  constructor
  · intro n v s
    have haddr : BitVec.ofNat 16 (n % 65536) = BitVec.ofNat 16 n := BitVec.eq_of_toNat_eq (by simp)
    have hvalue : BitVec.ofNat 8 (v % 256) = BitVec.ofNat 8 v := BitVec.eq_of_toNat_eq (by simp)
    simp only [busReadAt, busWriteAt, haddr, hvalue, and_self]
  · intro a v s
    simp only [busReadAt, busWriteAt, BitVec.ofNat_toNat, BitVec.setWidth_eq, and_self]

/-! Cells and tails of the windows (R48, R141 to R143, R150). -/

theorem cellRead_cell {i : Nat} (h : i < 1920) (buffer : List Byte) (s : State) :
    cellRead buffer i s = (buffer.getD i 0, s) := if_pos h

theorem cellRead_tail {i : Nat} (h : 1920 ≤ i) (buffer : List Byte) (s : State) :
    cellRead buffer i s = drawByte s := if_neg (Nat.not_lt.2 h)

theorem cellWrite_cell {i : Nat} (h : i < 1920) (buffer : List Byte) (v : Byte) :
    cellWrite buffer i v = buffer.set i v := if_pos h

theorem cellWrite_tail {i : Nat} (h : 1920 ≤ i) (buffer : List Byte) (v : Byte) :
    cellWrite buffer i v = buffer := if_neg (Nat.not_lt.2 h)

/-- What a region says about its addresses. -/
theorem holds_of_regionOf {a : Addr} {r : Region} (h : regionOf a = r) : r.holds a.toNat := h ▸ regionOf_holds a

theorem cellIndex_video {a : Addr} {i : Nat} (h : regionOf a = .video i) :
    cellIndex Config.videoStart a = i ∧ i < 1920 := by
  obtain ⟨ha, hi⟩ := holds_of_regionOf h
  exact ⟨cellIndex_eq ha, hi⟩

theorem cellIndex_videoTail {a : Addr} (h : regionOf a = .videoTail) : 1920 ≤ cellIndex Config.videoStart a :=
  cellIndex_ge (holds_of_regionOf h).1

theorem cellIndex_attr {a : Addr} {i : Nat} (h : regionOf a = .attr i) :
    cellIndex Config.attrStart a = i ∧ i < 1920 := by
  obtain ⟨ha, hi⟩ := holds_of_regionOf h
  exact ⟨cellIndex_eq ha, hi⟩

theorem cellIndex_attrTail {a : Addr} (h : regionOf a = .attrTail) : 1920 ≤ cellIndex Config.attrStart a :=
  cellIndex_ge (holds_of_regionOf h).1

theorem cellIndex_settings {a : Addr} {i : Nat} (h : regionOf a = .settings i) :
    cellIndex Config.settingsStart a = i := cellIndex_eq (holds_of_regionOf h).1

/-! Bus reads, row by row of the map (R53, R152). -/

/-- R43: a read in a region is the read callback of the region's registration. -/
theorem busRead_port {a : Addr} {r : Region} {port : ReadPort} (hregion : regionOf a = r)
    (hport : (handlerOf r).map Registration.onRead = some (some port)) (s : State) :
    busRead a s = deviceRead port a s := by
  obtain ⟨h, hfind, honRead⟩ := Option.map_eq_some_iff.1 hport
  rw [← hregion, ← findHandler_region] at hfind
  simp only [busRead, busReadVia, hfind, honRead]

/-- Settles O9: the callback of each region, at the cell that the address stands for. -/
theorem busReadFollowsTheAddressMap : Obligations.BusReadFollowsTheAddressMap := by
  intro a s
  cases hr : regionOf a with
  | flat => exact busRead_flat (findHandler_of_flat hr) s
  | video i =>
    obtain ⟨hcell, hi⟩ := cellIndex_video hr
    rw [busRead_port hr rfl, deviceRead, hcell, cellRead_cell hi]
  | videoTail => exact (busRead_port hr rfl s).trans (cellRead_tail (cellIndex_videoTail hr) _ _)
  | attr i =>
    obtain ⟨hcell, hi⟩ := cellIndex_attr hr
    rw [busRead_port hr rfl, deviceRead, hcell, cellRead_cell hi]
  | attrTail => exact (busRead_port hr rfl s).trans (cellRead_tail (cellIndex_attrTail hr) _ _)
  | uartData => exact busRead_port hr rfl s
  | uartStatus => simp only [busRead_port hr rfl, deviceRead, uartStatus, List.isEmpty_iff]
  | kbdData => exact busRead_port hr rfl s
  | kbdStatus => simp only [busRead_port hr rfl, deviceRead, kbdStatus, List.isEmpty_iff]
  | settings i => rw [busRead_port hr rfl, deviceRead, cellIndex_settings hr]

/-! Bus writes, row by row of the map (R53, R152). -/

/-- R44: a write in a region is the write callback of the region's registration. -/
theorem busWrite_port {a : Addr} {r : Region} {port : WritePort} (hregion : regionOf a = r)
    (hport : (handlerOf r).map Registration.onWrite = some (some port)) (v : Byte) (s : State) :
    busWrite a v s = deviceWrite port a v s := by
  obtain ⟨h, hfind, honWrite⟩ := Option.map_eq_some_iff.1 hport
  rw [← hregion, ← findHandler_region] at hfind
  simp only [busWrite, busWriteVia, hfind, honWrite]

/-- R47 (D4, log entry 15): a registration without a write callback drops the write. -/
theorem busWrite_dropped {a : Addr} {r : Region} (hregion : regionOf a = r)
    (hport : (handlerOf r).map Registration.onWrite = some none) (v : Byte) (s : State) : busWrite a v s = s := by
  obtain ⟨h, hfind, honWrite⟩ := Option.map_eq_some_iff.1 hport
  rw [← hregion, ← findHandler_region] at hfind
  simp only [busWrite, busWriteVia, hfind, honWrite]

theorem busWrite_video {a : Addr} {i : Nat} (h : regionOf a = .video i) (v : Byte) (s : State) :
    busWrite a v s = { s with video := s.video.set i v } := by
  obtain ⟨hcell, hi⟩ := cellIndex_video h
  rw [busWrite_port h rfl, deviceWrite, hcell, cellWrite_cell hi]

theorem busWrite_videoTail {a : Addr} (h : regionOf a = .videoTail) (v : Byte) (s : State) : busWrite a v s = s := by
  rw [busWrite_port h rfl, deviceWrite, cellWrite_tail (cellIndex_videoTail h)]

theorem busWrite_attr {a : Addr} {i : Nat} (h : regionOf a = .attr i) (v : Byte) (s : State) :
    busWrite a v s = { s with attr := s.attr.set i v } := by
  obtain ⟨hcell, hi⟩ := cellIndex_attr h
  rw [busWrite_port h rfl, deviceWrite, hcell, cellWrite_cell hi]

theorem busWrite_attrTail {a : Addr} (h : regionOf a = .attrTail) (v : Byte) (s : State) : busWrite a v s = s := by
  rw [busWrite_port h rfl, deviceWrite, cellWrite_tail (cellIndex_attrTail h)]

theorem busWrite_settings {a : Addr} {i : Nat} (h : regionOf a = .settings i) (v : Byte) (s : State) :
    busWrite a v s =
      { s with settings := s.settings.set i v, events := s.events ++ [.save (s.settings.set i v)] } := by
  rw [busWrite_port h rfl, deviceWrite, cellIndex_settings h, settingsWrite]

/-- A state that is `u`, with the memory of `s`, has the memory of `s` and the outputs of `u`. -/
theorem sameMemory_sameOutputs_of_eq {s t u : State} (h : t = u) (hmem : u.mem = s.mem) :
    SameMemoryExcept [] s t ∧ SameOutputs u t := by
  subst h
  exact ⟨.of_eq hmem, rfl, rfl, rfl, rfl, rfl⟩

/-- R44, R47: what a Bus write stores, row by row. -/
theorem busWrite_stored (d : Addr) (v : Byte) {s : State} (hs : s.mem.wf = true) : Stored d v s (busWrite d v s) := by
  unfold Stored
  cases hr : regionOf d with
  | flat =>
    rw [busWrite_flat (findHandler_of_flat hr)]
    exact ⟨Memory.read_write_self hs d.isLt v,
      fun k hk => Memory.read_write_other hs d.isLt v (List.ne_of_not_mem_cons hk), rfl, rfl, rfl, rfl, rfl⟩
  | video => exact sameMemory_sameOutputs_of_eq (busWrite_video hr v s) rfl
  | videoTail => exact sameMemory_sameOutputs_of_eq (busWrite_videoTail hr v s) rfl
  | attr => exact sameMemory_sameOutputs_of_eq (busWrite_attr hr v s) rfl
  | attrTail => exact sameMemory_sameOutputs_of_eq (busWrite_attrTail hr v s) rfl
  | uartData => exact sameMemory_sameOutputs_of_eq ((busWrite_port hr rfl v s).trans (transmit_eq v s)) rfl
  | uartStatus => exact sameMemory_sameOutputs_of_eq (busWrite_dropped hr rfl v s) rfl
  | kbdData => exact sameMemory_sameOutputs_of_eq (busWrite_dropped hr rfl v s) rfl
  | kbdStatus => exact sameMemory_sameOutputs_of_eq (busWrite_dropped hr rfl v s) rfl
  | settings => exact sameMemory_sameOutputs_of_eq (busWrite_settings hr v s) rfl

/-- Settles O10: what the map's row stores, in the frame of every Bus write. -/
theorem busWriteFollowsTheAddressMap : Obligations.BusWriteFollowsTheAddressMap := fun d v s hs =>
  ⟨busWrite_stored d v hs, ⟨busWrite_a d v s, busWrite_x d v s, busWrite_y d v s, busWrite_sp d v s⟩,
    action_keeps_control (.write d v s), .nil (busWrite_uartRx d v s) (busWrite_kbd d v s) (busWrite_draws d v s),
    busWrite_pc d v s, busWrite_p d v s, busWrite_cycles d v s, (busWrite_keepsHiddenBytes d v s hs).1⟩

/-! Flat memory and the windows over it (R30, R46, R61). -/

/-- Settles O11: flat memory itself takes the write and answers the reads. -/
theorem flatMemoryRoundTrips : Obligations.FlatMemoryRoundTrips := by
  intro a v s hs ha
  rw [busWrite_flat (findHandler_of_flat ha)]
  constructor
  · rw [busRead_flat (findHandler_of_flat ha)]
    exact Memory.read_write_self hs a.isLt v
  · intro b hne hb
    have hne' : b.toNat ≠ a.toNat := fun e => hne (BitVec.eq_of_toNat_eq e)
    simp only [busRead_flat (findHandler_of_flat hb)]
    exact Memory.read_write_other hs a.isLt v hne'

/-- Settles O12: no device stores into flat memory, and none looks at it. -/
theorem windowsNeverReachFlatMemory : Obligations.WindowsNeverReachFlatMemory := fun _ s hwindow =>
  ⟨fun v => busWrite_mem_window hwindow v s,
    fun m => by rw [busRead_window_hidden hwindow s.x s.y m s]⟩

/-- R46, R162: an image that fits. -/
theorem loadROMAt_fits {offset : Nat} {bytes : List Byte} (h : offset + bytes.length ≤ 65536) (s : State) :
    loadROMAt offset bytes s = .next { s with mem := s.mem.load offset bytes, romLoaded := true } := if_pos h

/-- R46 (D13, log entry 16): an image that runs past the end of memory. -/
theorem loadROMAt_pastEnd {offset : Nat} {bytes : List Byte} (h : 65536 < offset + bytes.length) (s : State) :
    loadROMAt offset bytes s = .refused .romPastEnd := if_neg (Nat.not_le.2 h)

/-- Settles O51: loading goes to flat memory directly, past every registration. -/
theorem loadRomWritesUnderTheWindows : Obligations.LoadRomWritesUnderTheWindows := by
  refine ⟨fun offset bytes s hs hfits => ?_, fun _ _ s hpast => loadROMAt_pastEnd hpast s, fun _ _ => rfl⟩
  obtain ⟨hwf, himage, hothers⟩ := Memory.load_spec bytes hs hfits
  exact ⟨_, loadROMAt_fits hfits s, rfl, himage, hothers, hwf, rfl⟩

end Sys2Proof.Machine
end

section
/-! PROOFS. The decoder and the encoder: when the decoder reads an instruction, said once, and what follows from it
(30_encoding.md R70 to R78). -/

namespace Sys2Proof

open Sys2Proof.Machine

/-! The operand bytes (R70 to R73). -/

/-- R70, R78: the opcode byte and the operand bytes make up the format's length. -/
theorem encodeOperand_length (o : Operand) : (encodeOperand o).length + 1 = o.format.length := by
  cases o <;> rfl

/-- Two bytes are enough for an operand of any format. -/
theorem exists_operand_of_format (f : Format) (b1 b2 : Byte) (rest : List Byte) :
    ∃ (o : Operand) (rest' : List Byte), o.format = f ∧ b1 :: b2 :: rest = encodeOperand o ++ rest' := by
  cases f with
  | imp => exact ⟨.none, b1 :: b2 :: rest, rfl, rfl⟩
  | imm => exact ⟨.imm8 b1, b2 :: rest, rfl, rfl⟩
  | zp => exact ⟨.zp8 b1, b2 :: rest, rfl, rfl⟩
  | abs => exact ⟨.abs16 (wordOf b2 b1), rest, rfl, by simp [encodeOperand]⟩

/-- R70 to R73: past the opcode byte, operand bytes of the format decode to their operand. -/
theorem decodeWith_cons_encodeOperand {m : OpcodeMap} {op : Byte} {o : Operand}
    (hformat : o.format = (decodeOpcodeWith m op).format) (rest : List Byte) :
    decodeWith m (op :: (encodeOperand o ++ rest)) = .ok (⟨decodeOpcodeWith m op, o⟩, rest) := by
  cases o <;> simp [decodeWith, encodeOperand, ← hformat, Operand.format]

/-- R70 to R73, R76: what the decoder reads is the instruction dispatched for the first byte, with an operand of its
format, whose bytes come next. -/
theorem decodeWith_cons_eq_ok_iff {m : OpcodeMap} {op : Byte} {bs : List Byte} {x : Insn} {rest : List Byte} :
    decodeWith m (op :: bs) = .ok (x, rest) ↔
      x.instr = decodeOpcodeWith m op ∧ x.operand.format = x.instr.format ∧ bs = encodeOperand x.operand ++ rest := by
  constructor
  · intro h
    simp only [decodeWith] at h
    split at h <;> cases h
    · next hformat => exact ⟨rfl, hformat.symm, rfl⟩
    · next hformat => exact ⟨rfl, hformat.symm, rfl⟩
    · next hformat => exact ⟨rfl, hformat.symm, rfl⟩
    · next hformat => exact ⟨rfl, hformat.symm, by simp [encodeOperand]⟩
  · rintro ⟨hinstr, hformat, rfl⟩
    obtain ⟨i, o⟩ := x
    subst hinstr
    exact decodeWith_cons_encodeOperand hformat rest

/-- R70, R77: an instruction is well formed when its row is and its operand has the row's format. -/
theorem Insn.wellFormedFor_iff {m : OpcodeMap} {x : Insn} :
    x.wellFormedFor m = true ↔ x.instr.wellFormedFor m = true ∧ x.operand.format = x.instr.format := by
  simp [Insn.wellFormedFor]

/-- Settles O1: distinct bytes dispatch back to the instruction, and its operand bytes back to the operand. -/
theorem decodeInvertsEncode : Obligations.DecodeInvertsEncode := by
  intro m x rest hm hx
  obtain ⟨hinstr, hformat⟩ := Insn.wellFormedFor_iff.1 hx
  exact decodeWith_cons_eq_ok_iff.2 ⟨(decodeOpcodeWith_encode m hm x.instr hinstr).symm, hformat, rfl⟩

/-- Settles O2: the byte dispatched is the instruction's own, and the operand's bytes follow it. -/
theorem encodeInvertsDecode : Obligations.EncodeInvertsDecode := by
  intro m bs x rest h
  cases bs with
  | nil => cases h
  | cons op bs =>
    obtain ⟨hinstr, hformat, rfl⟩ := decodeWith_cons_eq_ok_iff.1 h
    obtain ⟨hwf, hop⟩ := decodeOpcodeWith_spec m op
    rw [← hinstr] at hwf hop
    exact ⟨by rw [encodeWith, hop, List.cons_append], Insn.wellFormedFor_iff.2 ⟨hwf, hformat⟩⟩

/-! The opcode byte alone (R70, R77, R78). -/

/-- R77: the fallback is the dispatch of exactly the bytes outside the ten. -/
theorem decodeOpcodeWith_eq_unimpl_iff (m : OpcodeMap) (op : Byte) :
    decodeOpcodeWith m op = .unimpl op ↔ op ∉ m.bytes := by
  constructor
  · intro h
    have hwf := (decodeOpcodeWith_spec m op).1
    simpa [h, Instr.wellFormedFor] using hwf
  · intro h
    simp only [OpcodeMap.bytes, List.mem_cons, List.not_mem_nil, or_false, not_or] at h
    simp only [decodeOpcodeWith, h, if_false]

/-- R78 with the bytes of R74: a well-formed instruction's length from its opcode byte. -/
theorem Instr.length_of_encodeOpcode {i : Instr} (hi : i.wellFormed = true) :
    i.length =
      if encodeOpcode i = 0xA9 ∨ encodeOpcode i = 0xA2 ∨ encodeOpcode i = 0xA0 ∨ encodeOpcode i = 0x85 then 2
      else if encodeOpcode i = 0x8D ∨ encodeOpcode i = 0x4C ∨ encodeOpcode i = 0x20 then 3
      else 1 := by
  cases i with
  | unimpl op =>
    simp only [Instr.wellFormed, Instr.wellFormedFor, OpcodeMap.bytes, Config.opcodes, Bool.not_eq_true',
      List.contains_eq_mem, List.mem_cons, List.not_mem_nil, or_false, decide_eq_false_iff_not, not_or] at hi
    simp only [encodeOpcode, encodeOpcodeWith, hi, or_false, if_false]
    rfl
  | _ => rfl

/-- Settles O3: two bytes are enough for the operand, and the byte fixes the rest. -/
theorem everyOpcodeByteDecodes : Obligations.EveryOpcodeByteDecodes := by
  intro op b1 b2 rest
  obtain ⟨o, rest', hformat, hbytes⟩ := exists_operand_of_format (decodeOpcode op).format b1 b2 rest
  obtain ⟨hwf, hop⟩ := decodeOpcodeWith_spec Config.opcodes op
  refine ⟨⟨decodeOpcode op, o⟩, rest', decodeWith_cons_eq_ok_iff.2 ⟨rfl, hformat, hbytes⟩, rfl, ?_,
    decodeOpcodeWith_eq_unimpl_iff Config.opcodes op, ?_⟩
  · have hoperand := encodeOperand_length o
    have hcount := congrArg List.length hbytes
    rw [List.length_cons, List.length_cons, List.length_append] at hcount
    rw [Instr.length, ← hformat]
    omega
  · have hlength := Instr.length_of_encodeOpcode hwf
    rwa [encodeOpcode, hop] at hlength

/-- Settles O4: each row of the tables, evaluated. -/
theorem writtenOutWordsDecode : Obligations.WrittenOutWordsDecode :=
  ⟨rfl, rfl, rfl, rfl, rfl, rfl, rfl, rfl, rfl⟩

/-- Settles O5. -/
theorem opcodeBytesAreDistinct : Obligations.OpcodeBytesAreDistinct := by
  unfold Obligations.OpcodeBytesAreDistinct
  decide

end Sys2Proof
end

section
/-! PROOFS. The fetches of the opcode byte and of the operand from flat memory against the decoder, and the step
(30_encoding.md R71 to R73, R76, R82). -/

namespace Sys2Proof.Machine

/-! Reads of flat memory (R43, R45). -/

theorem busRead_of_flat {a : Addr} (h : regionOf a = .flat) (s : State) : busRead a s = (s.mem.read a.toNat, s) :=
  busRead_flat (findHandler_of_flat h) s

theorem readWord_of_flat {a : Addr} (h : regionOf a = .flat) (h' : regionOf (a + 1) = .flat) (s : State) :
    readWord a s = (wordOf (s.mem.read (a + 1).toNat) (s.mem.read a.toNat), s) := by
  simp only [readWord, busRead_of_flat h, busRead_of_flat h']

@[simp] theorem State.setPc_setPc (s : State) (v w : Addr) : (s.setPc v).setPc w = s.setPc w := rfl

/-! The operand fetches from flat memory (R71 to R73). -/

section OperandFetch
variable (s : State) (h : regionOf s.pc = .flat)
include h

theorem fetchImm8_of_flat : fetchImm8 s = (s.mem.read s.pc.toNat, s.setPc (s.pc + 1)) := by
  simp only [fetchImm8, busRead_of_flat h]

theorem fetchZp8_of_flat : fetchZp8 s = (zext16 (s.mem.read s.pc.toNat), s.setPc (s.pc + 1)) := by
  simp only [fetchZp8, busRead_of_flat h]

variable (h' : regionOf (s.pc + 1) = .flat)
include h'

theorem fetchAbs16_of_flat :
    fetchAbs16 s = (wordOf (s.mem.read (s.pc + 1).toNat) (s.mem.read s.pc.toNat), s.setPc (s.pc + 2)) := by
  simp only [fetchAbs16, readWord_of_flat h h']

theorem jumpAbs16_of_flat :
    jumpAbs16 s = s.setPc (wordOf (s.mem.read (s.pc + 1).toNat) (s.mem.read s.pc.toNat)) := by
  simp only [jumpAbs16, readWord_of_flat h h']

end OperandFetch

/-- Settles O7: the bytes the fetch reads are those of the decoded operand. -/
theorem operandFetchReadsTheDecodedOperand : Obligations.OperandFetchReadsTheDecodedOperand := by
  intro m s x rest h h' hdecode
  obtain ⟨-, hformat, hbytes⟩ := decodeWith_cons_eq_ok_iff.1 hdecode
  have hpc1 : s.pc + 1 + 1 = s.pc + 2 := BitVec.add_assoc _ _ _
  have hpc2 : s.pc + 1 + 2 = s.pc + 3 := BitVec.add_assoc _ _ _
  rw [← hpc1] at h'
  obtain ⟨i, o⟩ := x
  cases o with
  | none => exact hformat.symm
  | imm8 v =>
    obtain ⟨hv, -⟩ := List.cons.inj hbytes
    refine ⟨hformat.symm, (fetchImm8_of_flat (s.setPc (s.pc + 1)) h).trans ?_⟩
    simp only [State.setPc_mem, State.setPc_pc, State.setPc_setPc, hpc1, hv]
  | zp8 z =>
    obtain ⟨hz, -⟩ := List.cons.inj hbytes
    refine ⟨hformat.symm, zext16 z, zext16_toNat z, (fetchZp8_of_flat (s.setPc (s.pc + 1)) h).trans ?_⟩
    simp only [State.setPc_mem, State.setPc_pc, State.setPc_setPc, hpc1, hz]
  | abs16 w =>
    obtain ⟨hlo, htail⟩ := List.cons.inj hbytes
    obtain ⟨hhi, -⟩ := List.cons.inj htail
    refine ⟨hformat.symm, (fetchAbs16_of_flat (s.setPc (s.pc + 1)) h h').trans ?_,
      (jumpAbs16_of_flat (s.setPc (s.pc + 1)) h h').trans ?_⟩ <;>
      simp only [State.setPc_mem, State.setPc_pc, State.setPc_setPc, hpc1, hpc2, hlo, hhi, wordOf_hiByte_loByte]

/-! The step (R76). -/

theorem stepWith_of_on {s : State} (h : s.power = .on) (m : OpcodeMap) :
    stepWith m s = exec (decodeOpcodeWith m (busRead s.pc s).1) ((busRead s.pc s).2.setPc (s.pc + 1)) := by
  simp only [stepWith, h, cpuStepWith, fetchOpcode, busRead_pc]

theorem stepWith_of_off {s : State} (h : s.power = .off) (m : OpcodeMap) : stepWith m s = .next s := by
  simp only [stepWith, h]

/-- Settles O6: the decoder dispatches the byte that the fetch reads. -/
theorem stepRunsTheDecodedInstruction : Obligations.StepRunsTheDecodedInstruction := by
  refine ⟨fun _ => rfl, fun m s hon => stepWith_of_on hon m, fun m s x rest hon hflat hdecode => ?_,
    fun m s hoff => stepWith_of_off hoff m⟩
  obtain ⟨hinstr, -, -⟩ := decodeWith_cons_eq_ok_iff.1 hdecode
  rw [stepWith_of_on hon, busRead_of_flat hflat, hinstr]

/-- R76, R120: no meaning of an instruction answers a fault or a refusal. -/
theorem exec_completes (i : Instr) (s : State) : ∃ t, exec i s = .next t := by
  cases i <;> exact ⟨_, rfl⟩

theorem stepWith_completes (m : OpcodeMap) (s : State) : ∃ t, stepWith m s = .next t := by
  cases h : s.power with
  | on => rw [stepWith_of_on h]; exact exec_completes _ _
  | off => exact ⟨s, stepWith_of_off h m⟩

/-- Settles O8: a step is an instruction's meaning, or keeps the state. -/
theorem everyStepCompletes : Obligations.EveryStepCompletes :=
  ⟨stepWith_completes Config.opcodes, stepWith_completes, exec_completes⟩

end Sys2Proof.Machine
end

section
/-! PROOFS. `BRK`: the three slots of its frame and the vector it enters through (40_brk.md R90, 60_exceptions.md
R126). -/

namespace Sys2Proof.Machine

/-- R27: a word has no third byte. -/
theorem hiByte_toNat_eq_div (w : Addr) : (hiByte w).toNat = w.toNat / 256 := by
  have h := w.isLt
  rw [hiByte_toNat]
  omega

/-- R24, R90: a flag that is set reads as set, and every other one as before. -/
theorem getFlag_setFlag_true {i : Nat} (hi : i < 8) (j : Nat) (p : Byte) :
    getFlag j (setFlag i true p) = (decide (j = i) || getFlag j p) := by
  rw [getFlag_setFlag i j true p hi]
  by_cases h : j = i <;> simp [h]

/-- R90: the pushed copy is `P` with B set. -/
theorem getFlag_breakCopy (j : Nat) (p : Byte) :
    getFlag j (breakCopy p) = (decide (j = Config.flagBits.b) || getFlag j p) :=
  getFlag_setFlag_true (i := Config.flagBits.b) (by decide) j p

/-- R25, R90: the copy of `P` goes below the return address. -/
theorem takeBreak_mem_eq_write (s : State) :
    (takeBreak s).mem = (pushWord (s.pc + 1) s).mem.write (0x0100 + (s.sp - 2).toNat) (breakCopy s.p) := by
  rw [takeBreak_eq, pushWord_eq]

/-- R90: what taking the break leaves in memory. -/
theorem takeBreak_mem {s : State} (hs : s.mem.wf = true) :
    (takeBreak s).mem.read (0x0100 + s.sp.toNat) = hiByte (s.pc + 1) ∧
    (takeBreak s).mem.read (0x0100 + (s.sp - 1).toNat) = loByte (s.pc + 1) ∧
    (takeBreak s).mem.read (0x0100 + (s.sp - 2).toNat) = breakCopy s.p ∧
    SameMemoryExcept [0x0100 + s.sp.toNat, 0x0100 + (s.sp - 1).toNat, 0x0100 + (s.sp - 2).toNat] s (takeBreak s) := by
  obtain ⟨hwf, hhi, hlo, hother⟩ := pushWord_mem (s.pc + 1) s hs
  have hwrite {k : Nat} (hk : k ≠ 0x0100 + (s.sp - 2).toNat) :=
    Memory.read_write_other hwf (slot_lt (s.sp - 2)) (breakCopy s.p) hk
  rw [SameMemoryExcept, takeBreak_mem_eq_write]
  refine ⟨?_, ?_, Memory.read_write_self hwf (slot_lt _) _, fun k hk => ?_⟩
  · rw [hwrite (slot_ne (sp_ne_sub_two _)), hhi]
  · rw [hwrite (slot_ne (sub_one_ne_sub_two _)), hlo]
  · simp only [List.mem_cons, List.not_mem_nil, or_false, not_or] at hk
    obtain ⟨hkhi, hklo, hkp⟩ := hk
    rw [hwrite hkp, hother k hkhi hklo]

/-- R15, R124: no stack slot lies past the stack page, where the break vector is. -/
theorem slot_ne_of_high {k : Nat} (hk : 0x0200 ≤ k) (sp : Byte) : k ≠ 0x0100 + sp.toNat := by
  have h := sp.isLt
  omega

/-- R126: the three pushes leave memory past the stack page alone. -/
theorem takeBreak_mem_high {s : State} (hs : s.mem.wf = true) {k : Nat} (hk : 0x0200 ≤ k) :
    (takeBreak s).mem.read k = s.mem.read k := by
  obtain ⟨-, -, -, hother⟩ := takeBreak_mem hs
  exact hother k (by simp only [List.mem_cons, slot_ne_of_high hk, List.not_mem_nil, or_self, not_false_eq_true])

/-- R90, R126: everything `BRK` writes but the three slots, over the memory with them. -/
theorem exec_brk_eq (s : State) :
    exec .brk s = .next { s with
      mem := (takeBreak s).mem
      sp := s.sp - 3
      p := setFlag Config.flagBits.i true s.p
      pc := wordOf ((takeBreak s).mem.read 0xFFFF) ((takeBreak s).mem.read 0xFFFE)
      cycles := s.cycles + 7 } := by
  rw [exec_brk, takeBreak_eq]
  rfl

/-- Settles O31: the vector is read after the three pushes, which do not reach it. -/
theorem breakEntersThroughTheVector : Obligations.BreakEntersThroughTheVector := by
  refine ⟨rfl, fun s hs => ?_⟩
  simp only [stackAddr_toNat]
  obtain ⟨hhi, hlo, hp, hother⟩ := takeBreak_mem hs
  refine ⟨_, exec_brk_eq s, ?_, ?_, ?_, ?_, ?_, rfl, rfl, rfl, rfl, rfl, hother, ⟨rfl, rfl, rfl, rfl, rfl⟩,
    ⟨rfl, rfl, rfl, rfl, rfl⟩, .nil rfl rfl rfl⟩
  · rw [hhi, hiByte_toNat_eq_div]
  · rw [hlo, loByte_toNat]
  · intro j
    rw [hp, getFlag_breakCopy]
  · exact fun j => getFlag_setFlag_true (by decide) j s.p
  · rw [wordOf_toNat, takeBreak_mem_high hs (by decide), takeBreak_mem_high hs (by decide)]

end Sys2Proof.Machine
end

section
/-! PROOFS. One Bus read against the inputs it takes (20_memory.md R52), and the three loads of an immediate byte
(41_load_immediate.md R95 to R97). -/

namespace Sys2Proof.Machine

/-! What one Bus read takes from the inputs. -/

theorem regionOf_eq_uartData_iff (a : Addr) : regionOf a = .uartData ↔ a = 0x3000 :=
  ⟨fun h => BitVec.eq_of_toNat_eq (holds_of_regionOf h), fun h => h ▸ rfl⟩

theorem regionOf_eq_kbdData_iff (a : Addr) : regionOf a = .kbdData ↔ a = 0x3002 :=
  ⟨fun h => BitVec.eq_of_toNat_eq (holds_of_regionOf h), fun h => h ▸ rfl⟩

/-- R53: the effect of a single read on the inputs, by the region of its address. -/
theorem inputsAfterReads_singleton {a : Addr} {s t : State}
    (hrx : t.uartRx = if regionOf a = .uartData then s.uartRx.tail else s.uartRx)
    (hkbd : t.kbd = if regionOf a = .kbdData then s.kbd.tail else s.kbd)
    (hdraws : t.draws = if isTail a then s.draws + 1 else s.draws) : InputsAfterReads [a] s t := by
  refine ⟨?_, ?_, ?_⟩
  · simp only [hrx, List.count_singleton, beq_iff_eq, ← regionOf_eq_uartData_iff]
    split <;> simp only [List.drop_one, List.drop_zero]
  · simp only [hkbd, List.count_singleton, beq_iff_eq, ← regionOf_eq_kbdData_iff]
    split <;> simp only [List.drop_one, List.drop_zero]
  · rw [hdraws, List.countP_singleton]
    split <;> rfl

/-- R52: a Bus read takes from the inputs what its address says, and nothing else of them. -/
theorem busRead_inputs (a : Addr) (s : State) : InputsAfterReads [a] s (busRead a s).2 := by
  have hread := busReadFollowsTheAddressMap a s
  refine inputsAfterReads_singleton ?_ ?_ ?_
  · rw [hread]
    cases regionOf a <;> rfl
  · rw [hread]
    cases regionOf a <;> rfl
  · rw [hread, isTail]
    cases regionOf a <;> rfl

/-! The loads. -/

/-- R95 to R97: whichever of A, X and Y it writes, a load leaves everything else as `AfterLoad` says. -/
theorem afterLoad_busRead (s : State) (a x y : Byte) :
    AfterLoad (busRead s.pc s).1 s { (busRead s.pc s).2 with
      a := a, x := x, y := y
      pc := s.pc + 1, p := updateZN (busRead s.pc s).1 s.p, cycles := s.cycles + 2 } where
  sp := busRead_sp s.pc s
  pc := rfl
  cycles := rfl
  zero := getFlag_zero_updateZN _ _
  negative := getFlag_negative_updateZN _ _
  otherFlags _ hz hn := getFlag_other_updateZN hz hn _ _
  memory := .of_eq (busRead_mem s.pc s)
  outputs := ⟨busRead_video s.pc s, busRead_attr s.pc s, busRead_settings s.pc s, busRead_uartTxLog s.pc s,
    busRead_events s.pc s⟩
  control := ⟨busRead_power s.pc s, busRead_romLoaded s.pc s, busRead_cursor s.pc s, busRead_cursorVisible s.pc s,
    busRead_txCallback s.pc s⟩
  inputs := (busRead_inputs s.pc s).congr rfl rfl rfl rfl rfl rfl

/-- Settles O22: the byte read goes to A, and the read keeps X and Y. -/
theorem loadAccumulatorLoadsTheOperand : Obligations.LoadAccumulatorLoadsTheOperand :=
  ⟨rfl, fun s => ⟨_, exec_ldaImm s, rfl, busRead_x s.pc s, busRead_y s.pc s, afterLoad_busRead s _ _ _⟩⟩

/-- Settles O23: the byte read goes to X or to Y, and the read keeps A and the other index register. -/
theorem loadIndexLoadsTheOperand : Obligations.LoadIndexLoadsTheOperand :=
  ⟨⟨rfl, rfl⟩, fun s =>
    ⟨⟨_, exec_ldxImm s, rfl, busRead_a s.pc s, busRead_y s.pc s, afterLoad_busRead s _ _ _⟩,
      ⟨_, exec_ldyImm s, rfl, busRead_a s.pc s, busRead_x s.pc s, afterLoad_busRead s _ _ _⟩⟩⟩

end Sys2Proof.Machine
end

section
/-! PROOFS. The two stores of A: the operand fetch leaves everything a Bus write looks at, so what the instruction stores
is what one Bus write stores (42_store.md R100, R101). -/

namespace Sys2Proof.Machine

/-! The operand fetches of the stores (R72, R73, R45). -/

@[simp] theorem fetchZp8_pc (s : State) : (fetchZp8 s).2.pc = s.pc + 1 := by simp [fetchZp8]

@[simp] theorem fetchAbs16_pc (s : State) : (fetchAbs16 s).2.pc = s.pc + 2 := by simp [fetchAbs16]

theorem fetchZp8_sameOutputs (s : State) : SameOutputs s (fetchZp8 s).2 :=
  ⟨fetchZp8_video s, fetchZp8_attr s, fetchZp8_settings s, fetchZp8_uartTxLog s, fetchZp8_events s⟩

theorem fetchAbs16_sameOutputs (s : State) : SameOutputs s (fetchAbs16 s).2 :=
  ⟨fetchAbs16_video s, fetchAbs16_attr s, fetchAbs16_settings s, fetchAbs16_uartTxLog s, fetchAbs16_events s⟩

/-- R45, R52: a word read takes from the inputs what its two addresses say. -/
theorem readWord_inputs (a : Addr) (s : State) : InputsAfterReads [a, a + 1] s (readWord a s).2 :=
  (busRead_inputs a s).trans (busRead_inputs (a + 1) _)

/-- R51, R52: a Bus write and the cost take nothing more from the inputs. -/
theorem InputsAfterReads.busWrite_charge {reads : List Addr} {s f : State} (h : InputsAfterReads reads s f) (d : Addr)
    (v : Byte) (n : Nat) : InputsAfterReads reads s ((busWrite d v f).charge n) :=
  h.congr rfl rfl rfl (busWrite_uartRx d v f) (busWrite_kbd d v f) (busWrite_draws d v f)

/-! What a store stores. -/

theorem sameOutputs_iff {s t : State} :
    SameOutputs s t ↔ t.video = s.video ∧ t.attr = s.attr ∧ t.settings = s.settings ∧ t.uartTxLog = s.uartTxLog ∧
      t.events = s.events :=
  ⟨fun ⟨hvideo, hattr, hsettings, hlog, hevents⟩ => ⟨hvideo, hattr, hsettings, hlog, hevents⟩,
    fun ⟨hvideo, hattr, hsettings, hlog, hevents⟩ => ⟨hvideo, hattr, hsettings, hlog, hevents⟩⟩

/-- `Stored` looks at memory, the outputs and the callback only. -/
theorem Stored.congr {d : Addr} {v : Byte} {s t s' t' : State} (h : Stored d v s t) (hmem : s.mem = s'.mem)
    (hout : SameOutputs s' s) (hcallback : s.txCallback = s'.txCallback) (hmem' : t'.mem = t.mem)
    (hout' : SameOutputs t t') : Stored d v s' t' := by
  obtain ⟨hvideo, hattr, hsettings, hlog, hevents⟩ := hout
  obtain ⟨hvideo', hattr', hsettings', hlog', hevents'⟩ := hout'
  simpa only [Stored, SameMemoryExcept, sameOutputs_iff, hmem, hcallback, hvideo, hattr, hsettings, hlog, hevents, hmem',
    hvideo', hattr', hsettings', hlog', hevents'] using h

/-- R53: in flat memory one byte is stored, and no device notices. -/
theorem stored_of_flat {d : Addr} (h : regionOf d = .flat) {v : Byte} {s t : State} :
    Stored d v s t ↔ t.mem.read d.toNat = v ∧ SameMemoryExcept [d.toNat] s t ∧ SameOutputs s t := by
  simp only [Stored, h]

/-- R44: seen from the state before the operand fetch, a store stores what its Bus write does. -/
theorem stored_busWrite_charge {s f : State} (hs : s.mem.wf = true) (hmem : f.mem = s.mem) (hout : SameOutputs s f)
    (hcallback : f.txCallback = s.txCallback) (d : Addr) (v : Byte) (n : Nat) :
    Stored d v s ((busWrite d v f).charge n) :=
  have hwritten : Stored d v f (busWrite d v f) := busWrite_stored d v (by rw [hmem, hs])
  hwritten.congr hmem hout hcallback rfl ⟨rfl, rfl, rfl, rfl, rfl⟩

/-! The stores. -/

theorem exec_keeps_control {i : Instr} {s t : State} (h : exec i s = .next t) : SameControl s t :=
  Actions.induct .refl .trans action_keeps_control (exec_actions h)

/-- Settles O24: the zero page is flat memory, so the one Bus write stores the byte there. -/
theorem storeZeroPageWritesA : Obligations.StoreZeroPageWritesA := by
  refine ⟨rfl, fun s hs => ⟨zext16_toNat _, _, exec_staZp s, ?_⟩⟩
  obtain ⟨ha, hx, hy, hp, hsp⟩ := exec_registers (exec_staZp s)
  have hflat : regionOf (fetchZp8 s).1 = .flat := regionOf_zext16 _
  obtain ⟨hbyte, hmemory, houtputs⟩ := (stored_of_flat hflat).1 <|
    stored_busWrite_charge hs (fetchZp8_mem s) (fetchZp8_sameOutputs s) (fetchZp8_txCallback s) _ s.a 3
  have hfetch : InputsAfterReads [s.pc] s (fetchZp8 s).2 := (busRead_inputs s.pc s).congr rfl rfl rfl rfl rfl rfl
  exact ⟨hbyte, hmemory, by simp, by simp, hp, ⟨ha, hx, hy, hsp⟩, houtputs, exec_keeps_control (exec_staZp s),
    hfetch.busWrite_charge _ _ _⟩

/-- Settles O25: the one Bus write goes wherever the word read as operand says. -/
theorem storeAbsoluteWritesA : Obligations.StoreAbsoluteWritesA := by
  refine ⟨rfl, fun s hs => ⟨rfl, _, exec_staAbs s, ?_⟩⟩
  obtain ⟨ha, hx, hy, hp, hsp⟩ := exec_registers (exec_staAbs s)
  have hstored := stored_busWrite_charge hs (fetchAbs16_mem s) (fetchAbs16_sameOutputs s) (fetchAbs16_txCallback s)
    (fetchAbs16 s).1 s.a 4
  have hfetch : InputsAfterReads [s.pc, s.pc + 1] s (fetchAbs16 s).2 :=
    (readWord_inputs s.pc s).congr rfl rfl rfl rfl rfl rfl
  exact ⟨hstored, by simp, by simp, hp, ⟨ha, hx, hy, hsp⟩, exec_keeps_control (exec_staAbs s),
    hfetch.busWrite_charge _ _ _⟩

end Sys2Proof.Machine
end

section
/-! PROOFS. Control transfer: `JMP`, `JSR` and `RTS`, and the return address that the last two pass through the stack
(43_control_transfer.md R105 to R108). -/

namespace Sys2Proof.Machine

/-! The jump. -/

/-- Settles O26: the word read keeps everything but the inputs. -/
theorem jumpLoadsPC : Obligations.JumpLoadsPC := by
  refine ⟨rfl, fun s => ⟨_, exec_jmpAbs s, rfl, rfl, ?_⟩⟩
  obtain ⟨ha, hx, hy, hp, hsp⟩ := exec_registers (exec_jmpAbs s)
  exact ⟨hp, ⟨ha, hx, hy, hsp⟩, .of_eq (readWord_mem s.pc s), ⟨by simp, by simp, by simp, by simp, by simp⟩,
    exec_keeps_control (exec_jmpAbs s), (readWord_inputs s.pc s).congr rfl rfl rfl rfl rfl rfl⟩

/-! The subroutine call. -/

/-- R27: what a pushed word leaves in memory, the slots named by their addresses. -/
theorem pushWord_slots (w : Addr) {s : State} (hs : s.mem.wf = true) :
    (pushWord w s).mem.read (stackAddr s.sp).toNat = hiByte w ∧
    (pushWord w s).mem.read (stackAddr (s.sp - 1)).toNat = loByte w ∧
    SameMemoryExcept [(stackAddr s.sp).toNat, (stackAddr (s.sp - 1)).toNat] s (pushWord w s) := by
  obtain ⟨-, hhi, hlo, -⟩ := pushWord_mem w s hs
  obtain ⟨-, -, hother, -⟩ := pushWordPutsHighByteFirst w s hs
  rw [← sp_sub_one_toNat] at hother
  simp only [stackAddr_toNat]
  exact ⟨hhi, hlo, hother⟩

/-- R27: an address that is neither slot reads as before. -/
theorem pushWord_mem_read_other (w : Addr) {s : State} (hs : s.mem.wf = true) {a : Addr} (hhi : a ≠ stackAddr s.sp)
    (hlo : a ≠ stackAddr (s.sp - 1)) : (pushWord w s).mem.read a.toNat = s.mem.read a.toNat := by
  obtain ⟨-, -, hother⟩ := pushWord_slots w hs
  exact hother _ (by simp only [List.mem_cons, BitVec.toNat_inj, hhi, hlo, List.not_mem_nil, or_self, not_false_eq_true])

/-- R106: the operand read changes no memory, so the memory after a `JSR` is the one its pushes left. -/
theorem exec_jsr_mem {s t : State} (h : exec .jsr s = .next t) : t.mem = (pushWord (s.pc + 1) s).mem := by
  cases h.symm.trans (exec_jsr s)
  exact readWord_mem s.pc _

/-- R106: the return address stands in the two slots, and no other byte changed. -/
theorem exec_jsr_slots {s t : State} (hs : s.mem.wf = true) (h : exec .jsr s = .next t) :
    t.mem.read (stackAddr s.sp).toNat = hiByte (s.pc + 1) ∧
    t.mem.read (stackAddr (s.sp - 1)).toNat = loByte (s.pc + 1) ∧
    SameMemoryExcept [(stackAddr s.sp).toNat, (stackAddr (s.sp - 1)).toNat] s t := by
  rw [SameMemoryExcept, exec_jsr_mem h]
  exact pushWord_slots (s.pc + 1) hs

/-- Settles O27: the pushes touch the two slots and `SP` only, and the operand read the inputs only. -/
theorem jumpSubroutinePushesThenJumps : Obligations.JumpSubroutinePushesThenJumps := by
  refine ⟨rfl, fun s hs => ⟨_, exec_jsr s, rfl, ?_⟩⟩
  obtain ⟨ha, hx, hy, hp, hsp⟩ := exec_registers (exec_jsr s)
  obtain ⟨hhi, hlo, hother⟩ := exec_jsr_slots hs (exec_jsr s)
  have hinputs := readWord_inputs s.pc (pushWord (s.pc + 1) s)
  refine ⟨by rw [hhi, hiByte_toNat_eq_div], by rw [hlo, loByte_toNat], hother, hsp, rfl, hp, ha, hx, hy,
    ⟨by simp, by simp, by simp, by simp, by simp⟩, exec_keeps_control (exec_jsr s),
    hinputs.congr (by simp) (by simp) (by simp) rfl rfl rfl⟩

/-- R106 (e), R178: from flat memory `JSR` jumps to the word that stands at its operand after both pushes. -/
theorem exec_jsr_pc_of_flat {s : State} (h : regionOf s.pc = .flat) (h' : regionOf (s.pc + 1) = .flat) :
    ∃ t, exec .jsr s = .next t ∧
      t.pc = wordOf ((pushWord (s.pc + 1) s).mem.read (s.pc + 1).toNat) ((pushWord (s.pc + 1) s).mem.read s.pc.toNat) :=
  ⟨_, exec_jsr s, by rw [readWord_of_flat h h']⟩

/-- Settles O28: the operand's bytes after the pushes are the pushed ones in the slots, and the old ones elsewhere. -/
theorem jumpSubroutineReadsItsOperandLast : Obligations.JumpSubroutineReadsItsOperandLast := by
  refine ⟨fun s hs hlo hhi => ?_, fun s hs hflat hflat' hpchi hpclo hpc1hi hpc1lo => ?_⟩
  · obtain ⟨hhiByte, hloByte, -⟩ := pushWord_slots (s.pc + 1) hs
    rw [← hhi] at hhiByte
    rw [← hlo] at hloByte
    obtain ⟨t, ht, hpc⟩ := exec_jsr_pc_of_flat (hlo ▸ regionOf_stackAddr _) (hhi ▸ regionOf_stackAddr _)
    exact ⟨t, ht, by rw [hpc, hhiByte, hloByte, wordOf_hiByte_loByte]⟩
  · obtain ⟨t, ht, hpc⟩ := exec_jsr_pc_of_flat hflat hflat'
    exact ⟨t, ht, by rw [hpc, wordOf_toNat, pushWord_mem_read_other _ hs hpc1hi hpc1lo,
      pushWord_mem_read_other _ hs hpchi hpclo]⟩

/-! The return. -/

/-- R28: the second increment wraps modulo 256. -/
theorem sp_add_two_toNat (sp : Byte) : (sp + 2).toNat = (sp.toNat + 2) % 256 := by
  rw [BitVec.toNat_add]
  rfl

/-- Settles O29: the popped word, and one more, modulo 65536. -/
theorem returnPopsPC : Obligations.ReturnPopsPC := by
  refine ⟨rfl, fun s => ⟨_, exec_rts s, ?_, sp_add_two_toNat s.sp, rfl, rfl, rfl, rfl, rfl, .of_eq rfl,
    ⟨rfl, rfl, rfl, rfl, rfl⟩, ⟨rfl, rfl, rfl, rfl, rfl⟩, .nil rfl rfl rfl⟩⟩
  rw [← sp_add_two_toNat, ← sp_add_one_toNat, BitVec.toNat_add, wordOf_toNat]
  rfl

/-- Settles O30: `RTS` puts the pushed word `s.pc + 1` together again and adds 1. -/
theorem returnUndoesJumpSubroutine : Obligations.ReturnUndoesJumpSubroutine := by
  intro s t u hs hjsr hsp hhi hlo
  obtain ⟨hpushedHi, hpushedLo, -⟩ := exec_jsr_slots hs hjsr
  rw [hpushedHi, stackAddr_toNat] at hhi
  rw [hpushedLo, stackAddr_toNat] at hlo
  have hcalled : u.sp = s.sp - 2 := hsp.trans (exec_registers hjsr).sp
  have hsp1 : u.sp + 1 = s.sp - 1 := by rw [hcalled]; ring
  have hsp2 : u.sp + 2 = s.sp := by rw [hcalled]; ring
  refine ⟨_, exec_rts u, ?_, hsp2⟩
  calc wordOf (u.mem.read (0x0100 + (u.sp + 2).toNat)) (u.mem.read (0x0100 + (u.sp + 1).toNat)) + 1
      = s.pc + 1 + 1 := by rw [hsp1, hsp2, hhi, hlo, wordOf_hiByte_loByte]
    _ = s.pc - 1 + 3 := by ring

end Sys2Proof.Machine
end

section
/-! PROOFS. `NOP` and the fallback: what each leaves, and that the fallback is the one source of diagnostics
(44_nop_and_unimplemented.md R110 to R112). -/

namespace Sys2Proof.Machine

/-! Diagnostics among the events (R111, R112). -/

/-- What is added to the events decides whether the machine stays free of diagnostics. -/
theorem noDiag_iff_of_events_append {s t : State} {added : List Event} (h : t.events = s.events ++ added) :
    NoDiag t ↔ NoDiag s ∧ added.all (fun e => !e.isDiag) = true := by
  rw [NoDiag, h, List.all_append, Bool.and_eq_true, NoDiag]

theorem noDiag_of_events_eq {s t : State} (hs : NoDiag s) (h : t.events = s.events) : NoDiag t :=
  (noDiag_iff_of_events_append (by rw [h, List.append_nil])).2 ⟨hs, rfl⟩

/-- R144, R150: a device emits `Tx` or a save, and nothing else. -/
theorem deviceWrite_keeps_noDiag (port : WritePort) (addr : Addr) (v : Byte) {s : State} (hs : NoDiag s) :
    NoDiag (deviceWrite port addr v s) := by
  cases port with
  | video => exact hs
  | attr => exact hs
  | uartData =>
    rw [deviceWrite, transmit_eq]
    exact (noDiag_iff_of_events_append rfl).2 ⟨hs, by cases s.txCallback <;> rfl⟩
  | settings => exact (noDiag_iff_of_events_append rfl).2 ⟨hs, rfl⟩

theorem busWrite_keeps_noDiag (addr : Addr) (v : Byte) {s : State} (hs : NoDiag s) : NoDiag (busWrite addr v s) := by
  obtain ⟨-, hw⟩ | ⟨-, ⟨port, hw⟩ | hw⟩ := busWrite_cases addr v s
  · exact noDiag_of_events_eq hs (by rw [hw])
  · rw [hw]
    exact deviceWrite_keeps_noDiag port addr v hs
  · rwa [hw]

/-- R111: the fallback's own event is a diagnostic. -/
theorem exec_unimpl_leaves_diag {op : Byte} {s t : State} (h : exec (.unimpl op) s = .next t) : ¬ NoDiag t := by
  cases h
  rw [noDiag_iff_of_events_append (s := s) rfl]
  exact fun ⟨_, hadded⟩ => Bool.false_ne_true hadded

/-- Every instruction but the fallback emits only what a Bus write emits, if anything. -/
theorem exec_keeps_noDiag {i : Instr} {s t : State} (hi : ∀ op, i ≠ .unimpl op) (h : exec i s = .next t)
    (hs : NoDiag s) : NoDiag t := by
  cases i <;> cases h
  case staZp => exact busWrite_keeps_noDiag _ _ (noDiag_of_events_eq hs (fetchZp8_events s))
  case staAbs => exact busWrite_keeps_noDiag _ _ (noDiag_of_events_eq hs (fetchAbs16_events s))
  case unimpl op => exact absurd rfl (hi op)
  all_goals exact noDiag_of_events_eq hs (by simp [takeBreak, jumpAbs16])

/-- Settles O43: the fallback's own event is a diagnostic, and no Bus write emits one. -/
theorem diagnosticsComeFromTheFallbackOnly : Obligations.DiagnosticsComeFromTheFallbackOnly := by
  intro i s t h hs
  constructor
  · rintro ht op rfl
    exact exec_unimpl_leaves_diag h ht
  · intro hi
    exact exec_keeps_noDiag hi h hs

/-- Settles O32: the configured byte finds `NOP`, which only charges. -/
theorem nopOnlyCharges : Obligations.NopOnlyCharges :=
  ⟨decodeOpcode_encodeOpcode .nop rfl, fun s => ⟨_, exec_nop s, rfl, rfl⟩⟩

/-- Settles O33: a byte outside the ten selects the fallback, which emits its diagnostic and charges. -/
theorem fallbackReportsAndCharges : Obligations.FallbackReportsAndCharges := fun op hop =>
  ⟨(decodeOpcodeWith_eq_unimpl_iff Config.opcodes op).2 hop, fun s => ⟨_, exec_unimpl op s, rfl, rfl, rfl⟩⟩

end Sys2Proof.Machine
end

section
/-! PROOFS. The devices as stores: cells that read as last written, FIFOs that deliver in order, and both FIFOs and the
transmit log across resets (60_exceptions.md R141 to R151). -/

namespace Sys2Proof.Machine

/-! Backed cells (R141, R142, R150). -/

theorem getD_set {l : List Byte} {i : Nat} (hi : i < l.length) (v : Byte) (j : Nat) :
    (l.set i v).getD j 0 = if j = i then v else l.getD j 0 := by
  simp only [List.getD_eq_getElem?_getD]
  split
  case isTrue h => rw [h, List.getElem?_set_self hi, Option.getD_some]
  case isFalse h => rw [List.getElem?_set_ne (Ne.symm h)]

/-- R141: a write of a video cell shows in reads of that cell only. -/
theorem busRead_busWrite_video {a : Addr} {i : Nat} (h : regionOf a = .video i) {s : State}
    (hlen : s.video.length = 1920) (v : Byte) (b : Addr) :
    (busRead b (busWrite a v s)).1 = if regionOf b = .video i then v else (busRead b s).1 := by
  have hi : i < s.video.length := hlen ▸ (cellIndex_video h).2
  rw [busWrite_video h, busReadFollowsTheAddressMap, busReadFollowsTheAddressMap]
  cases regionOf b with
  | video j => simp only [getD_set hi, Region.video.injEq]
  | _ => rfl

/-- R142: a write of an attribute cell shows in reads of that cell only. -/
theorem busRead_busWrite_attr {a : Addr} {i : Nat} (h : regionOf a = .attr i) {s : State}
    (hlen : s.attr.length = 1920) (v : Byte) (b : Addr) :
    (busRead b (busWrite a v s)).1 = if regionOf b = .attr i then v else (busRead b s).1 := by
  have hi : i < s.attr.length := hlen ▸ (cellIndex_attr h).2
  rw [busWrite_attr h, busReadFollowsTheAddressMap, busReadFollowsTheAddressMap]
  cases regionOf b with
  | attr j => simp only [getD_set hi, Region.attr.injEq]
  | _ => rfl

/-- R150: a write of a settings cell shows in reads of that cell only. -/
theorem busRead_busWrite_settings {a : Addr} {i : Nat} (h : regionOf a = .settings i) {s : State}
    (hlen : s.settings.length = 256) (v : Byte) (b : Addr) :
    (busRead b (busWrite a v s)).1 = if regionOf b = .settings i then v else (busRead b s).1 := by
  have hi : i < s.settings.length := hlen ▸ (holds_of_regionOf h).2
  rw [busWrite_settings h, busReadFollowsTheAddressMap, busReadFollowsTheAddressMap]
  cases regionOf b with
  | settings j => simp only [getD_set hi, Region.settings.injEq]
  | _ => rfl

section BackedCell

variable {a : Addr}
  (hcell : (∃ i, regionOf a = .video i) ∨ (∃ i, regionOf a = .attr i) ∨ (∃ i, regionOf a = .settings i))
include hcell

/-- R53: a backed cell has one address. -/
theorem eq_of_regionOf_eq_cell {b : Addr} (h : regionOf b = regionOf a) : b = a := by
  have hb := holds_of_regionOf h
  have ha := regionOf_holds a
  obtain ⟨i, hr⟩ | ⟨i, hr⟩ | ⟨i, hr⟩ := hcell <;> rw [hr] at ha hb <;>
    exact BitVec.eq_of_toNat_eq (hb.1.trans ha.1.symm)

theorem busRead_busWrite_cell {s : State} (hs : Inv s) (v : Byte) (b : Addr) :
    (busRead b (busWrite a v s)).1 = if regionOf b = regionOf a then v else (busRead b s).1 := by
  obtain ⟨i, hr⟩ | ⟨i, hr⟩ | ⟨i, hr⟩ := hcell <;> rw [hr]
  · exact busRead_busWrite_video hr hs.videoLength v b
  · exact busRead_busWrite_attr hr hs.attrLength v b
  · exact busRead_busWrite_settings hr hs.settingsLength v b

end BackedCell

/-- Settles O13: the write shows in reads of the cell only, and the cell has one address. -/
theorem backedCellsRoundTrip : Obligations.BackedCellsRoundTrip := fun a v _ hs hcell =>
  have hread := busRead_busWrite_cell hcell hs v
  ⟨(hread a).trans (if_pos rfl),
    fun b hne _ => (hread b).trans (if_neg fun h => hne (eq_of_regionOf_eq_cell hcell h))⟩

/-! FIFOs (R144 to R149). -/

/-- R144, R147: where each read takes the oldest byte of a FIFO, as many reads as it holds bytes give them in order and
leave it empty. -/
theorem readTimes_fifo {a : Addr} {withFifo : List Byte → State}
    (hread : ∀ b bs, busRead a (withFifo (b :: bs)) = (b, withFifo bs)) (bytes : List Byte) :
    readTimes a bytes.length (withFifo bytes) = (bytes, withFifo []) := by
  induction bytes with
  | nil => rfl
  | cons b bs ih => simp only [List.length_cons, readTimes, hread, ih]

theorem readTimes_uartData (bytes : List Byte) (s : State) :
    readTimes 0x3000 bytes.length { s with uartRx := bytes } = (bytes, { s with uartRx := [] }) :=
  readTimes_fifo (withFifo := fun fifo => { s with uartRx := fifo })
    (fun _ _ => busReadFollowsTheAddressMap 0x3000 _) bytes

theorem readTimes_kbdData (bytes : List Byte) (s : State) :
    readTimes 0x3002 bytes.length { s with kbd := bytes } = (bytes, { s with kbd := [] }) :=
  readTimes_fifo (withFifo := fun fifo => { s with kbd := fifo })
    (fun _ _ => busReadFollowsTheAddressMap 0x3002 _) bytes

/-- R144: an empty receive FIFO gives 0 and stays empty. -/
theorem busRead_uartData_empty {s : State} (h : s.uartRx = []) : busRead 0x3000 s = (0x00, s) := by
  have hs : { s with uartRx := [] } = s := h ▸ rfl
  exact hs ▸ busReadFollowsTheAddressMap 0x3000 { s with uartRx := [] }

/-- R147: an empty keyboard FIFO gives 0 and stays empty. -/
theorem busRead_kbdData_empty {s : State} (h : s.kbd = []) : busRead 0x3002 s = (0x00, s) := by
  have hs : { s with kbd := [] } = s := h ▸ rfl
  exact hs ▸ busReadFollowsTheAddressMap 0x3002 { s with kbd := [] }

/-- Settles O53: an input makes the FIFO what it held with the new bytes behind, and the reads give all of that. -/
theorem fifosDeliverInOrder : Obligations.FifosDeliverInOrder := by
  refine ⟨fun m bytes s => ⟨rfl, rfl, rfl, ?_⟩,
    fun s => ⟨busReadFollowsTheAddressMap 0x3001 s, busRead_uartData_empty⟩,
    fun m b s => ⟨rfl, rfl, rfl, ?_⟩,
    fun s => ⟨busReadFollowsTheAddressMap 0x3003 s, busRead_kbdData_empty⟩⟩
  · have hread := readTimes_uartData (s.uartRx ++ bytes) s
    rw [List.length_append] at hread
    exact hread
  · have hread := readTimes_kbdData (s.kbd ++ [b]) s
    rw [List.length_append] at hread
    exact hread

/-! Resets and power (R151, D6). -/

/-- The two FIFOs and the transmit log are as before. -/
def SameFifos (s t : State) : Prop := t.uartRx = s.uartRx ∧ t.kbd = s.kbd ∧ t.uartTxLog = s.uartTxLog

theorem cpuReset_sameFifos (s : State) : SameFifos s (cpuReset s) := by
  rw [cpuReset_eq]
  exact ⟨rfl, rfl, rfl⟩

theorem powerOn_sameFifos (loaded : Vector Byte 256) (s : State) : SameFifos s (powerOn loaded s).2 := by
  unfold powerOn
  split
  · exact cpuReset_sameFifos { s with power := .on }
  · exact ⟨rfl, rfl, rfl⟩

theorem controllerReset_sameFifos (s : State) : SameFifos s (controllerReset s) := by
  unfold controllerReset
  split
  · exact ⟨rfl, rfl, rfl⟩
  · exact cpuReset_sameFifos s

/-- Settles O54: the CPU reset keeps all three, and the other operations add nothing that touches them. -/
theorem fifosSurviveEveryReset : Obligations.FifosSurviveEveryReset := by
  rintro loaded s t (rfl | rfl | rfl | rfl)
  · exact cpuReset_sameFifos s
  · exact powerOn_sameFifos loaded s
  · exact ⟨rfl, rfl, rfl⟩
  · exact controllerReset_sameFifos s

end Sys2Proof.Machine
end

section
/-! PROOFS. What instructions cost, the run loop, resets and power, and the invariant along any run of host calls
(70_reset_and_hazards.md R160 to R190). -/

namespace Sys2Proof.Machine

/-! The cost of an instruction (R190). -/

/-- R190: the cost table, by instruction. -/
def instrCost : Instr → Nat
  | .brk => Config.costs.brk
  | .ldaImm => Config.costs.ldaImm
  | .ldxImm => Config.costs.ldxImm
  | .ldyImm => Config.costs.ldyImm
  | .staZp => Config.costs.staZp
  | .staAbs => Config.costs.staAbs
  | .jmpAbs => Config.costs.jmpAbs
  | .jsr => Config.costs.jsr
  | .rts => Config.costs.rts
  | .nop => Config.costs.nop
  | .unimpl _ => Config.costs.unimpl

theorem instrCost_pos (i : Instr) : 1 ≤ instrCost i := by cases i <;> exact Nat.succ_pos _

theorem instrCost_le_seven (i : Instr) : instrCost i ≤ 7 := by cases i <;> exact Nat.le_of_ble_eq_true rfl

@[simp] theorem jumpAbs16_cycles (s : State) : (jumpAbs16 s).cycles = s.cycles := readWord_cycles s.pc s

@[simp] theorem takeBreak_cycles (s : State) : (takeBreak s).cycles = s.cycles := by rw [takeBreak_eq]

/-- R190: a meaning ends by charging its cost, and nothing before that touches the counter. -/
theorem exec_cycles {i : Instr} {s t : State} (h : exec i s = .next t) : t.cycles = s.cycles + instrCost i := by
  cases i <;> cases h <;> refine congrArg (· + _) ?_
  case brk => exact takeBreak_cycles s
  case ldaImm => exact fetchImm8_cycles s
  case ldxImm => exact fetchImm8_cycles s
  case ldyImm => exact fetchImm8_cycles s
  case staZp => exact (busWrite_cycles _ _ _).trans (fetchZp8_cycles s)
  case staAbs => exact (busWrite_cycles _ _ _).trans (fetchAbs16_cycles s)
  case jmpAbs => exact jumpAbs16_cycles s
  case jsr => exact (jumpAbs16_cycles _).trans (pushWord_cycles _ s)
  case rts => exact popWord_cycles s
  case nop => rfl
  case unimpl op => rfl

/-- Settles O41. -/
theorem everyInstructionAddsItsFixedCost : Obligations.EveryInstructionAddsItsFixedCost := by
  refine ⟨fun i s t h => ?_, fun _ => rfl⟩
  rw [exec_cycles h]
  cases i <;> rfl

/-! One turn of the run loop: arrivals, then a step (R57, R170). -/

@[simp] theorem arriveAll_cycles (rs : List Arrival) (s : State) : (arriveAll rs s).cycles = s.cycles := by
  rw [arriveAll_eq]

@[simp] theorem arriveAll_power (rs : List Arrival) (s : State) : (arriveAll rs s).power = s.power := by
  rw [arriveAll_eq]

theorem cpuStepWith_completes (m : OpcodeMap) (s : State) : ∃ t, cpuStepWith m s = .next t := exec_completes _ _

theorem stepWith_eq_cpuStepWith {s : State} (h : s.power = .on) (m : OpcodeMap) : stepWith m s = cpuStepWith m s := by
  simp only [stepWith, h]

section Turn

variable {m : OpcodeMap} {rs : List Arrival} {s t : State} (h : cpuStepWith m (arriveAll rs s) = .next t)
include h

/-- R190: a turn of the loop costs what its instruction costs. -/
theorem turn_cycles : s.cycles + 1 ≤ t.cycles ∧ t.cycles ≤ s.cycles + 7 := by
  have hcycles := exec_cycles h
  rw [fetchOpcode_cycles, arriveAll_cycles] at hcycles
  have hpos := instrCost_pos (decodeOpcodeWith m (fetchOpcode (arriveAll rs s)).1)
  have hle := instrCost_le_seven (decodeOpcodeWith m (fetchOpcode (arriveAll rs s)).1)
  omega

theorem turn_actions : Actions (arriveAll rs s) t := (actions_fetchByte _).trans (exec_actions h)

theorem turn_power : t.power = s.power := by
  rw [(exec_keeps_control h).power, fetchOpcode_power, arriveAll_power]

end Turn

/-! The run loop (R170). -/

/-- What every turn towards the goal keeps, the loop keeps; it completes, and with steps enough it reaches the goal. -/
theorem executeLoop_keeps {m : OpcodeMap} {goal : Nat} {P : State → Prop}
    (hturn : ∀ {rs s t}, P s → s.cycles < goal → cpuStepWith m (arriveAll rs s) = .next t → P t)
    (fuel : Nat) (arrivals : List (List Arrival)) {s : State} (hs : P s) :
    ∃ t, executeLoop m fuel goal arrivals s = .next t ∧ P t ∧ (goal ≤ s.cycles + fuel → goal ≤ t.cycles) := by
  induction fuel generalizing arrivals s with
  | zero => exact ⟨s, rfl, hs, id⟩
  | succ fuel ih =>
    by_cases hgoal : goal ≤ s.cycles
    · exact ⟨s, executeLoop_done hgoal _ _, hs, fun _ => hgoal⟩
    · have hbelow : s.cycles < goal := Nat.lt_of_not_le hgoal
      obtain ⟨u, hu⟩ := cpuStepWith_completes m (arriveAll (arrivals.headD []) s)
      obtain ⟨t, ht, hPt, hreach⟩ := ih arrivals.tail (hturn hs hbelow hu)
      refine ⟨t, (executeLoop_step hbelow fuel arrivals hu).trans ht, hPt, fun _ => hreach ?_⟩
      have := (turn_cycles hu).1
      omega

/-- Two bounds on steps that are both enough give the same run: every turn adds at least 1 to the counter. -/
theorem executeLoop_fuel_irrelevant {m : OpcodeMap} {goal fuel fuel' : Nat} (arrivals : List (List Arrival)) {s : State}
    (hfuel : goal ≤ s.cycles + fuel) (hfuel' : goal ≤ s.cycles + fuel') :
    executeLoop m fuel goal arrivals s = executeLoop m fuel' goal arrivals s := by
  induction fuel generalizing fuel' arrivals s with
  | zero => rw [executeLoop_done hfuel, executeLoop_done hfuel]
  | succ fuel ih =>
    by_cases hgoal : goal ≤ s.cycles
    · rw [executeLoop_done hgoal, executeLoop_done hgoal]
    · have hbelow : s.cycles < goal := Nat.lt_of_not_le hgoal
      obtain ⟨k, rfl⟩ : ∃ k, fuel' = k + 1 := Nat.exists_eq_succ_of_ne_zero (by omega)
      obtain ⟨t, ht⟩ := cpuStepWith_completes m (arriveAll (arrivals.headD []) s)
      have := (turn_cycles ht).1
      rw [executeLoop_step hbelow _ _ ht, executeLoop_step hbelow _ _ ht]
      exact ih _ (by omega) (by omega)

/-- With steps enough, the loop executes what is left of the budget. -/
theorem executeLoop_eq_execute {m : OpcodeMap} {goal fuel : Nat} (arrivals : List (List Arrival)) {s : State}
    (hfuel : goal ≤ s.cycles + fuel) :
    executeLoop m fuel goal arrivals s = execute m (goal - s.cycles) arrivals s := by
  rw [execute]
  by_cases hgoal : goal ≤ s.cycles
  · rw [executeLoop_done hgoal, executeLoop_done (by omega)]
  · rw [show s.cycles + (goal - s.cycles) = goal by omega]
    exact executeLoop_fuel_irrelevant arrivals hfuel (by omega)

/-! Ticks (R166). -/

theorem tick_of_off {s : State} (h : s.power = .off) (m : OpcodeMap) (budget : Nat) (arrivals : List (List Arrival)) :
    tick m budget arrivals s = .next s := by
  simp only [tick, h]

theorem tick_of_on {s : State} (h : s.power = .on) (m : OpcodeMap) (budget : Nat) (arrivals : List (List Arrival)) :
    tick m budget arrivals s = execute m budget arrivals s := by
  simp only [tick, h]

/-- R170, D9: a budget of 0 runs nothing. -/
theorem tick_zero (m : OpcodeMap) (arrivals : List (List Arrival)) (s : State) : tick m 0 arrivals s = .next s := by
  cases h : s.power with
  | off => exact tick_of_off h m 0 arrivals
  | on => exact tick_of_on h m 0 arrivals

/-- Settles O52: the last turn starts below the goal and costs at most 7. -/
theorem tickOvershootsByAtMostSix : Obligations.TickOvershootsByAtMostSix := by
  refine ⟨fun m budget arrivals s hoff => tick_of_off hoff m budget arrivals, fun m budget arrivals s hon => ?_⟩
  have hturn : ∀ {rs u v}, u.cycles ≤ s.cycles + budget + 6 → u.cycles < s.cycles + budget →
      cpuStepWith m (arriveAll rs u) = .next v → v.cycles ≤ s.cycles + budget + 6 := by
    intro rs u v _ hbelow hv
    have := (turn_cycles hv).2
    omega
  obtain ⟨t, ht, hle, hreach⟩ := executeLoop_keeps hturn budget arrivals (s := s) (by omega)
  have htick : tick m budget arrivals s = .next t := (tick_of_on hon m budget arrivals).trans ht
  refine ⟨t, htick, ?_, hreach le_rfl, fun _ => hle⟩
  rintro rfl
  exact Host.Outcome.next.inj (htick.symm.trans (tick_zero m arrivals s))

/-- Settles O56: after one turn the steps still allowed are enough for what is left of the budget. -/
theorem tickRunsStepsTowardsItsGoal : Obligations.TickRunsStepsTowardsItsGoal := by
  refine ⟨fun m budget arrivals s hon hbudget => ?_, tick_zero, arriveAll_nil, arriveAll_cons, fun _ _ => rfl,
    fun _ _ => rfl⟩
  obtain ⟨t, ht⟩ := cpuStepWith_completes m (arriveAll (arrivals.headD []) s)
  have hpower : t.power = .on := (turn_power ht).trans hon
  refine ⟨t, (stepWith_eq_cpuStepWith ((arriveAll_power _ s).trans hon) m).trans ht, hpower, ?_⟩
  obtain ⟨fuel, rfl⟩ := Nat.exists_eq_add_of_le' hbudget
  have := (turn_cycles ht).1
  rw [tick_of_on hon, tick_of_on hpower, execute, executeLoop_step (by omega) fuel arrivals ht,
    executeLoop_eq_execute _ (by omega)]

/-! Resets and power (R160 to R165). -/

theorem blank_ne_zero : Config.blank ≠ 0 := by
  intro h
  have hlt := Config.blankIndex.isLt
  have hmod : (Config.blankIndex.val + 1) % 256 = 0 := congrArg BitVec.toNat h
  omega

/-- R163, R165: the screen reset fills both buffers. -/
theorem clearScreen_cells (s : State) :
    ((clearScreen s).video.length = 1920 ∧ ∀ b ∈ (clearScreen s).video, b = Config.blank) ∧
    ((clearScreen s).attr.length = 1920 ∧ ∀ b ∈ (clearScreen s).attr, b = Config.attrClear) :=
  ⟨⟨List.length_replicate, fun _ => List.eq_of_mem_replicate⟩,
    ⟨List.length_replicate, fun _ => List.eq_of_mem_replicate⟩⟩

/-- R163, exactly. -/
theorem powerOn_of_romLoaded {s : State} (h : s.romLoaded = true) (loaded : Vector Byte 256) :
    powerOn loaded s = (true, clearScreen { s with
      a := 0x00
      x := 0x00
      y := 0x00
      sp := 0xFF
      p := 0x20
      cycles := 0
      pc := wordOf (s.mem.read 0xFFFD) (s.mem.read 0xFFFC)
      power := .on
      cursor := ⟨0, 0⟩
      settings := loaded.toList }) := by
  rw [powerOn, if_pos h, cpuReset_eq]
  rfl

theorem powerOn_of_noRom {s : State} (h : s.romLoaded = false) (loaded : Vector Byte 256) :
    powerOn loaded s = (false, s) := by
  rw [powerOn, h]
  rfl

theorem controllerReset_of_off {s : State} (h : s.power = .off) : controllerReset s = s := by
  simp only [controllerReset, h]

theorem controllerReset_of_on {s : State} (h : s.power = .on) : controllerReset s = clearScreen (cpuReset s) := by
  simp only [controllerReset, h]

/-- Settles O47: the vector is flat memory, so reading it changes nothing. -/
theorem cpuResetSetsTheRegisters : Obligations.CpuResetSetsTheRegisters := by
  intro s
  rw [cpuReset_eq]
  exact ⟨rfl, rfl, rfl, rfl, rfl, rfl, wordOf_toNat _ _, .of_eq rfl, ⟨rfl, rfl, rfl, rfl, rfl⟩,
    ⟨rfl, rfl, rfl, rfl, rfl⟩, .nil rfl rfl rfl⟩

/-- Settles O48. -/
theorem powerOnNeedsARom : Obligations.PowerOnNeedsARom := by
  refine ⟨fun loaded s hrom => powerOn_of_noRom hrom loaded, fun loaded s hrom => ?_⟩
  refine ⟨_, powerOn_of_romLoaded hrom loaded, ?_⟩
  obtain ⟨⟨hvideo, hblank⟩, hattr⟩ := clearScreen_cells s
  exact ⟨rfl, hrom, rfl, rfl, ⟨hvideo, fun b hb => ⟨hblank b hb, hblank b hb ▸ blank_ne_zero⟩⟩, hattr,
    rfl, rfl, rfl, rfl, rfl, rfl, wordOf_toNat _ _, .of_eq rfl, .nil rfl rfl rfl, rfl, rfl, rfl⟩

/-- Settles O49: a tick asks for the power first. -/
theorem powerOffKeepsEverythingElse : Obligations.PowerOffKeepsEverythingElse :=
  fun _ => ⟨rfl, rfl, tick_of_off rfl⟩

/-- Settles O50: `CpuReset` and the screen reset touch different fields. -/
theorem controllerResetKeepsMemoryAndSettings : Obligations.ControllerResetKeepsMemoryAndSettings := by
  refine ⟨fun _ => controllerReset_of_off, fun s hon => ?_⟩
  rw [controllerReset_of_on hon]
  obtain ⟨hvideo, hattr⟩ := clearScreen_cells (cpuReset s)
  obtain ⟨ha, hx, hy, hsp, hp, hcycles, hpc, hmem, houtputs, hcontrol, hinputs⟩ := cpuResetSetsTheRegisters s
  exact ⟨ha, hx, hy, hsp, hp, hcycles, hpc, hvideo, hattr, hmem, houtputs.settings, houtputs.uartTxLog,
    houtputs.events, hcontrol.trans ⟨rfl, rfl, rfl, rfl, rfl⟩, hinputs.congr rfl rfl rfl rfl rfl rfl⟩

/-- Settles O55: an empty image writes nothing, and `powerOn` sets what construction leaves at another value. -/
theorem resetIsTheBootOfAnEmptyImage : Obligations.ResetIsTheBootOfAnEmptyImage := by
  refine ⟨_, loadROMAt_fits (Nat.le_of_ble_eq_true rfl) _, ?_⟩
  rw [powerOn_of_romLoaded rfl, Vector.toList_replicate]
  rfl

/-! The invariant (R161 to R171). -/

/-- R16, R160: the status register that a reset leaves has U set. -/
theorem getFlag_unused_pReset : getFlag Config.flagBits.u Config.pReset = true := by decide

theorem cpuReset_keeps_inv {s : State} (hs : Inv s) : Inv (cpuReset s) := by
  rw [cpuReset_eq]
  exact ⟨hs.memWf, hs.videoLength, hs.attrLength, hs.settingsLength, getFlag_unused_pReset⟩

theorem clearScreen_keeps_inv {s : State} (hs : Inv s) : Inv (clearScreen s) :=
  have ⟨⟨hvideo, _⟩, ⟨hattr, _⟩⟩ := clearScreen_cells s
  ⟨hs.memWf, hvideo, hattr, hs.settingsLength, hs.unusedSet⟩

/-- R163: `powerOn` establishes the invariant wherever memory is canonical. -/
theorem inv_of_powerOn {loaded : Vector Byte 256} {s t : State} (h : powerOn loaded s = (true, t))
    (hmem : s.mem.wf = true) : Inv t := by
  cases hrom : s.romLoaded with
  | true =>
    obtain ⟨⟨hvideo, -⟩, ⟨hattr, -⟩⟩ := clearScreen_cells s
    cases (powerOn_of_romLoaded hrom loaded).symm.trans h
    exact ⟨hmem, hvideo, hattr, loaded.length_toList, getFlag_unused_pReset⟩
  | false => cases (powerOn_of_noRom hrom loaded).symm.trans h

theorem powerOn_keeps_inv (loaded : Vector Byte 256) {s : State} (hs : Inv s) : Inv (powerOn loaded s).2 := by
  cases hrom : s.romLoaded with
  | true =>
    have hon := powerOn_of_romLoaded hrom loaded
    rw [hon]
    exact inv_of_powerOn hon hs.memWf
  | false => rwa [powerOn_of_noRom hrom]

theorem powerOff_keeps_inv {s : State} (hs : Inv s) : Inv (powerOff s) := hs.congr hs.memWf rfl rfl rfl rfl

theorem controllerReset_keeps_inv {s : State} (hs : Inv s) : Inv (controllerReset s) := by
  cases h : s.power with
  | off => rwa [controllerReset_of_off h]
  | on => rw [controllerReset_of_on h]; exact clearScreen_keeps_inv (cpuReset_keeps_inv hs)

theorem arriveAll_keeps_inv (rs : List Arrival) {s : State} (hs : Inv s) : Inv (arriveAll rs s) := by
  rw [arriveAll_eq]
  exact hs.congr hs.memWf rfl rfl rfl rfl

theorem turn_keeps_inv {m : OpcodeMap} {rs : List Arrival} {s t : State} (hs : Inv s)
    (h : cpuStepWith m (arriveAll rs s) = .next t) : Inv t :=
  Actions.induct (R := fun s t => Inv s → Inv t) (fun _ => id) (fun h h' => h' ∘ h) action_keeps_inv (turn_actions h)
    (arriveAll_keeps_inv rs hs)

theorem tick_keeps_inv (m : OpcodeMap) (budget : Nat) (arrivals : List (List Arrival)) {s : State} (hs : Inv s) :
    ∃ t, tick m budget arrivals s = .next t ∧ Inv t := by
  cases h : s.power with
  | off => exact ⟨s, tick_of_off h m budget arrivals, hs⟩
  | on =>
    obtain ⟨t, ht, hinv, -⟩ := executeLoop_keeps (fun hu _ => turn_keeps_inv hu) budget arrivals hs
    exact ⟨t, (tick_of_on h m budget arrivals).trans ht, hinv⟩

/-- R162: an image that fits keeps memory canonical, and one that does not is refused. -/
theorem loadROM_cases (bytes : List Byte) {s : State} (hs : Inv s) :
    (∃ t, loadROM bytes s = .next t ∧ Inv t) ∨
    (loadROM bytes s = .refused .romPastEnd ∧ 65536 < 0x8000 + bytes.length) := by
  by_cases hfits : 0x8000 + bytes.length ≤ 65536
  · obtain ⟨hwf, -, -⟩ := Memory.load_spec bytes hs.memWf hfits
    exact .inl ⟨_, loadROMAt_fits hfits s, hs.congr hwf rfl rfl rfl rfl⟩
  · have hpast := Nat.lt_of_not_le hfits
    exact .inr ⟨loadROMAt_pastEnd hpast s, hpast⟩

theorem hostCall_cases (m : OpcodeMap) (c : HostCall) {s : State} (hs : Inv s) :
    (∃ t, hostCall m c s = .next t ∧ Inv t) ∨
    (hostCall m c s = .refused .romPastEnd ∧ ∃ bytes, c = .loadROM bytes ∧ 65536 < 0x8000 + bytes.length) := by
  cases c with
  | loadROM bytes => exact (loadROM_cases bytes hs).imp_right fun ⟨hrefused, hpast⟩ => ⟨hrefused, bytes, rfl, hpast⟩
  | powerOn loaded => exact .inl ⟨_, rfl, powerOn_keeps_inv loaded hs⟩
  | powerOff => exact .inl ⟨_, rfl, powerOff_keeps_inv hs⟩
  | reset => exact .inl ⟨_, rfl, controllerReset_keeps_inv hs⟩
  | tick budget arrivals => exact .inl (tick_keeps_inv m budget arrivals hs)
  | arrival r => exact .inl ⟨_, rfl, arriveAll_keeps_inv [r] hs⟩

/-- Settles O36, by induction over the host calls: the first refusal ends the run. -/
theorem hostCallsKeepTheInvariant : Obligations.HostCallsKeepTheInvariant := by
  intro m cs
  induction cs with
  | nil => exact fun s hs => .inl ⟨s, rfl, hs⟩
  | cons c cs ih =>
    intro s hs
    obtain ⟨t, ht, hinv⟩ | ⟨hrefused, bytes, rfl, hpast⟩ := hostCall_cases m c hs
    · have hrun : hostCalls m (c :: cs) s = hostCalls m cs t := by rw [hostCalls, ht]
      rw [hrun]
      exact (ih t hinv).imp_right fun ⟨hr, bytes, hmem, hpast⟩ => ⟨hr, bytes, List.mem_cons_of_mem c hmem, hpast⟩
    · exact .inr ⟨by rw [hostCalls, hrefused], bytes, List.mem_cons_self, hpast⟩

/-- Settles O35: no cell of memory, every buffer a `replicate` of its size, and `P` as R160 sets it. -/
theorem resetMeetsTheInvariant : Obligations.ResetMeetsTheInvariant :=
  ⟨reset_mem_wf, List.length_replicate, List.length_replicate, List.length_replicate,
    getFlag_unused_pReset⟩

/-- Settles O37: loading keeps memory canonical, and `powerOn` establishes the rest of the invariant. -/
theorem bootReachesARunningMachine : Obligations.BootReachesARunningMachine := by
  intro memInit txCallback image loaded hwf hfits
  obtain ⟨hloaded, -, -⟩ := Memory.load_spec image hwf hfits
  have hboot := powerOn_of_romLoaded
    (s := { construct memInit txCallback with mem := memInit.load 0x8000 image, romLoaded := true }) rfl loaded
  exact ⟨_, _, loadROMAt_fits hfits _, hboot, inv_of_powerOn hboot hloaded, rfl, wordOf_toNat _ _, rfl,
    rfl, rfl, rfl, rfl, rfl, rfl, rfl, rfl⟩

end Sys2Proof.Machine
end
